-- ==== Sys2Proof/Word.lean ====
section
/-! DEFINITION. The words of the block, each at the fixed width of 00_scope.md R7. Bit 0 is the least
significant bit of every word (00_scope.md R8). -/

namespace Sys2Proof

/-- A DataUnit (nibble), 4 bits: `d3` is bit 3 (10_state.md R20). -/
abbrev DataUnit := BitVec 4

/-- A Codeword, 7 bits: position `p` is bit `7 - p` (10_state.md R21). -/
abbrev Codeword := BitVec 7

/-- A syndrome, 3 bits: `s4 ‖ s2 ‖ s1` (10_state.md R22). -/
abbrev Syndrome := BitVec 3

/-- A 16-bit sample or value (10_state.md R23). -/
abbrev Sample := BitVec 16

/-- The 28-bit stream of a frame: element `j` is bit `27 - j` (10_state.md R24). -/
abbrev BitStream := BitVec 28

/-- The operand field `din` and the result field `dout` (30_encoding.md R44, R45). -/
abbrev Data := BitVec 32

/-- The operation code field (30_encoding.md R44). -/
abbrev Op := BitVec 4

/-- The bit count field (30_encoding.md R44). -/
abbrev Len := BitVec 6

/-- The error code field (30_encoding.md R45). -/
abbrev Err := BitVec 2

/-- A whole request, `op ‖ len ‖ din` (30_encoding.md R44). -/
abbrev ReqWord := BitVec 42

/-- A whole response, `err ‖ dout` (30_encoding.md R45). -/
abbrev RspWord := BitVec 34

end Sys2Proof
end

