-- ==== Sys2Proof/Config.lean ====
section
/-! DEFINITION. What the implementation fixes (00_scope.md R7), and the one parameter and the one value
the spec leaves open (70_reset_and_hazards.md R111). The other parameters of R7 are the widths of Word.lean. -/

namespace Sys2Proof.Config

/-- `PACK_MAX`, the longest bit sequence that PACK and UNPACK take (00_scope.md R7, decision D10). -/
def packMax : Len := 32

/-- `T_SETTLE`, an OPEN parameter (00_scope.md R7, decision D19): it has no body, so nothing can be proved
of its value. Log entry 7. -/
opaque tSettle : Nat

/-- What the `k`-th sample of the response port holds if it is taken before the inputs have settled: "any
value" (70_reset_and_hazards.md R111). It has no body: a free value. Log entry 7. -/
opaque unsettledResponse : Nat → RspWord

end Sys2Proof.Config
end

