-- ==== Sys2Proof/Machine/Operands.lean ====
section
/-! DEFINITION. Where the operands stand in a word and where the results go: bit sequences, byte placement,
lanes and streams (10_state.md R20 to R26, 30_encoding.md R48 and R52). -/

namespace Sys2Proof.Machine

/-- `pos(cw, p)`, the bit at position `p` of a codeword, `1 ≤ p ≤ 7` (10_state.md R21). -/
def pos (cw : Codeword) (p : Nat) : Bool := cw.getLsbD (7 - p)

/-- PACK's operand: the low `n` bits of `din`; the bits above are ignored (41_split_pack.md R73). -/
def seqOperand (n : Nat) (din : Data) : Data :=
  if n = 0 then 0 else din &&& BitVec.ofNat 32 (2 ^ n - 1)

/-- `pack`: an `n`-bit sequence as left-aligned bytes (41_split_pack.md R72). -/
def pack (n : Nat) (S : Data) : Data :=
  if n = 0 then 0 else S <<< (32 - n)

/-- `unpack`: the first `n` bits of left-aligned bytes (41_split_pack.md R75). -/
def unpack (n : Nat) (w : Data) : Data :=
  if n = 0 then 0 else w >>> (32 - n)

/-- `split16`: unit `k` of a value, unit 0 the most significant nibble (41_split_pack.md R69). -/
def unitOf (k : Fin 4) (v : Sample) : DataUnit := v.extractLsb' (12 - 4 * k.val) 4

/-- `join16`: four units in unit order (41_split_pack.md R77). -/
def join16 (n0 n1 n2 n3 : DataUnit) : Sample := n0 ++ n1 ++ n2 ++ n3

/-- `concat28`: four codewords in unit order (41_split_pack.md R70). -/
def concat28 (c0 c1 c2 c3 : Codeword) : BitStream := c0 ++ c1 ++ c2 ++ c3

/-- `split28`: the codeword of unit `k` (41_split_pack.md R76). -/
def codewordOf (k : Fin 4) (S : BitStream) : Codeword := S.extractLsb' (21 - 7 * k.val) 7

/-- Byte `i` of a left-aligned byte sequence (10_state.md R25). -/
def byteOf (i : Fin 4) (w : Data) : BitVec 8 := w.extractLsb' (24 - 8 * i.val) 8

end Sys2Proof.Machine
end

