-- ==== Sys2Proof/Machine/Flags.lean ====
section
/-! DEFINITION. The decoder's indications. The block stores no flag (10_state.md R16); the syndrome and the
Corrected bit are outputs of the request that produced them. -/

namespace Sys2Proof.Machine

/-- The parity check over positions {1,3,5,7} (40_block_coder.md R60). -/
def check1 (cw : Codeword) : Bool := pos cw 1 ^^ pos cw 3 ^^ pos cw 5 ^^ pos cw 7

/-- The parity check over positions {2,3,6,7} (40_block_coder.md R60). -/
def check2 (cw : Codeword) : Bool := pos cw 2 ^^ pos cw 3 ^^ pos cw 6 ^^ pos cw 7

/-- The parity check over positions {4,5,6,7} (40_block_coder.md R60). -/
def check4 (cw : Codeword) : Bool := pos cw 4 ^^ pos cw 5 ^^ pos cw 6 ^^ pos cw 7

/-- `s4 ‖ s2 ‖ s1` (10_state.md R22, 40_block_coder.md R63). -/
def syndrome (cw : Codeword) : Syndrome :=
  BitVec.ofBool (check4 cw) ++ BitVec.ofBool (check2 cw) ++ BitVec.ofBool (check1 cw)

/-- The Corrected bit: 1 exactly when the syndrome is not 0 (40_block_coder.md R61). -/
def corrected (syn : Syndrome) : BitVec 1 := if syn = 0 then 0 else 1

end Sys2Proof.Machine
end

