-- ==== Sys2Proof/Syntax.lean ====
section
/-! DEFINITION. The operations of 30_encoding.md R47: their names, and an instruction with its operands.
Every row of spec/opcode_table.json is one constructor of `Instr`. -/

namespace Sys2Proof

/-- The names of the eight assigned operation codes (30_encoding.md R47). -/
inductive OpName where
  | enc
  | dec
  | pack
  | unpack
  | frame
  | deframe
  | frames
  | abs16
deriving DecidableEq, Repr

/-- One request of an assigned operation, with the operand fields of 30_encoding.md R48. PACK, UNPACK and
DEFRAME keep all of `din`, the ignored bits too, so that an instruction stands for exactly one request word
(log entry 10). -/
inductive Instr where
  /-- ENC: encode one DataUnit (40_block_coder.md R58). -/
  | enc (n : DataUnit)
  /-- DEC: decode one codeword (40_block_coder.md R67). -/
  | dec (cw : Codeword)
  /-- PACK: pack the low `n` bits of `din` into bytes (41_split_pack.md R73). -/
  | pack (n : Len) (din : Data)
  /-- UNPACK: take the first `n` bits of the bytes in `din` (41_split_pack.md R75). -/
  | unpack (n : Len) (din : Data)
  /-- FRAME: encode an unsigned 16-bit value (42_frame.md R82). -/
  | frame (v : Sample)
  /-- DEFRAME: decode a four-byte frame (42_frame.md R86). -/
  | deframe (w : Data)
  /-- FRAMES: encode a signed sample's magnitude (42_frame.md R83). -/
  | frames (x : Sample)
  /-- ABS16: the magnitude of a signed sample (41_split_pack.md R79). -/
  | abs16 (x : Sample)
deriving DecidableEq, Repr

/-- The operation an instruction is a request for. -/
def Instr.opName : Instr → OpName
  | .enc _ => .enc
  | .dec _ => .dec
  | .pack _ _ => .pack
  | .unpack _ _ => .unpack
  | .frame _ => .frame
  | .deframe _ => .deframe
  | .frames _ => .frames
  | .abs16 _ => .abs16

end Sys2Proof
end

