-- ==== Sys2Proof/WellFormed.lean ====
section
/-! DEFINITION. Which instructions are legal requests. The operand types of `Instr` already rule out a
must-be-0 field that is not 0, so the one check left is the bit count of PACK and of UNPACK
(30_encoding.md R49: "for PACK and UNPACK, `len ≤ 32`"). -/

namespace Sys2Proof

/-- The instruction is a legal request (30_encoding.md R49). -/
def Instr.wf : Instr → Bool
  | .enc _ => true
  | .dec _ => true
  | .pack n _ => n ≤ Config.packMax
  | .unpack n _ => n ≤ Config.packMax
  | .frame _ => true
  | .deframe _ => true
  | .frames _ => true
  | .abs16 _ => true

end Sys2Proof
end

