-- ==== Sys2Proof/Decode.lean ====
section
/-! DEFINITION. The request format, the operation map, the decoder and the encoder
(30_encoding.md R44 to R51). -/

namespace Sys2Proof

/-! ### The request format REQ42 (30_encoding.md R44) -/

/-- `req[41:38]`. -/
def opField (w : ReqWord) : Op := w.extractLsb' 38 4

/-- `req[37:32]`. -/
def lenField (w : ReqWord) : Len := w.extractLsb' 32 6

/-- `req[31:0]`. -/
def dinField (w : ReqWord) : Data := w.extractLsb' 0 32

/-- `req_op ‖ req_len ‖ req_din` (10_state.md R18). -/
def reqWord (op : Op) (len : Len) (din : Data) : ReqWord := op ++ len ++ din

/-! ### The operation map (30_encoding.md R47) and its match and mask (R49) -/

/-- The operation code of an assigned operation (30_encoding.md R47). -/
def OpName.code : OpName → Op
  | .enc => 0x1
  | .dec => 0x2
  | .pack => 0x3
  | .unpack => 0x4
  | .frame => 0x5
  | .deframe => 0x6
  | .frames => 0x7
  | .abs16 => 0x8

/-- The operation an operation code selects; none for the reserved codes 0x0 and 0x9 to 0xF
(30_encoding.md R47, R50). -/
def opNameOf (c : Op) : Option OpName :=
  match c with
  | 0x1#4 => some .enc
  | 0x2#4 => some .dec
  | 0x3#4 => some .pack
  | 0x4#4 => some .unpack
  | 0x5#4 => some .frame
  | 0x6#4 => some .deframe
  | 0x7#4 => some .frames
  | 0x8#4 => some .abs16
  | _ => none

/-- The `match` value of an operation (30_encoding.md R49). -/
def OpName.fixed : OpName → ReqWord
  | .enc => 0x04000000000
  | .dec => 0x08000000000
  | .pack => 0x0C000000000
  | .unpack => 0x10000000000
  | .frame => 0x14000000000
  | .deframe => 0x18000000000
  | .frames => 0x1C000000000
  | .abs16 => 0x20000000000

/-- The `mask` value of an operation (30_encoding.md R49). -/
def OpName.mask : OpName → ReqWord
  | .enc => 0x3FFFFFFFFF0
  | .dec => 0x3FFFFFFFF80
  | .pack => 0x3C000000000
  | .unpack => 0x3C000000000
  | .frame => 0x3FFFFFF0000
  | .deframe => 0x3FF00000000
  | .frames => 0x3FFFFFF0000
  | .abs16 => 0x3FFFFFF0000

/-- The operation reads `len` as a bit count (30_encoding.md R48). -/
def OpName.takesLen : OpName → Bool
  | .pack => true
  | .unpack => true
  | .enc => false
  | .dec => false
  | .frame => false
  | .deframe => false
  | .frames => false
  | .abs16 => false

/-! ### Decoding -/

/-- Why a request word is no legal request: what 00_scope.md R11 raises. It is answered with an error
response (60_exceptions.md R91); it is no refusal of the model. -/
inductive DecodeError where
  /-- `raise ReservedOp(op)`: the operation code is reserved (60_exceptions.md R94). -/
  | reservedOp (op : Op)
  /-- `raise InvalidInput(op)`: an operand check failed (60_exceptions.md R92). -/
  | invalidInput (op : OpName)
deriving DecidableEq, Repr

/-- The operand fields of each operation, taken from a request word (30_encoding.md R48). -/
def operandsOf (op : OpName) (w : ReqWord) : Instr :=
  match op with
  | .enc => .enc (w.extractLsb' 0 4)
  | .dec => .dec (w.extractLsb' 0 7)
  | .pack => .pack (lenField w) (dinField w)
  | .unpack => .unpack (lenField w) (dinField w)
  | .frame => .frame (w.extractLsb' 0 16)
  | .deframe => .deframe (dinField w)
  | .frames => .frames (w.extractLsb' 0 16)
  | .abs16 => .abs16 (w.extractLsb' 0 16)

/-- The request evaluation of 30_encoding.md R49 up to its `case`: the reserved check from `op` alone, then
the must-be-0 check, then the bit count check. Total on all 2^42 words. -/
def decode (w : ReqWord) : Except DecodeError Instr :=
  match opNameOf (opField w) with
  | none => .error (.reservedOp (opField w))
  | some op =>
    if w &&& op.mask ≠ op.fixed then .error (.invalidInput op)
    else if op.takesLen && Config.packMax < lenField w then .error (.invalidInput op)
    else .ok (operandsOf op w)

/-! ### Encoding, from the same tables -/

/-- The `len` field of an instruction's request (30_encoding.md R48). -/
def Instr.lenOf : Instr → Len
  | .enc _ => 0
  | .dec _ => 0
  | .pack n _ => n
  | .unpack n _ => n
  | .frame _ => 0
  | .deframe _ => 0
  | .frames _ => 0
  | .abs16 _ => 0

/-- The `din` field of an instruction's request (30_encoding.md R48). -/
def Instr.dinOf : Instr → Data
  | .enc n => n.setWidth 32
  | .dec cw => cw.setWidth 32
  | .pack _ din => din
  | .unpack _ din => din
  | .frame v => v.setWidth 32
  | .deframe w => w
  | .frames x => x.setWidth 32
  | .abs16 x => x.setWidth 32

/-- The request word of an instruction (30_encoding.md R44, R47, R48). -/
def encode (i : Instr) : ReqWord := reqWord i.opName.code i.lenOf i.dinOf

/-! ### The table's own numbering -/

/-- The request word of a number of `nbits` bits. The table numbers a request as one number with bit 0 its
least significant bit, so the number is the request (30_encoding.md R44). -/
def tableWord (nbits w : Nat) : Nat := w % 2 ^ nbits

/-- The instruction the decoder reads from a number; none where it refuses the word, and none for a number
with a bit above `req[41]`, which no request has (log entry 11). -/
def decodeTableWord (nbits w : Nat) : Option Instr :=
  if tableWord nbits w < 2 ^ 42 then (decode (BitVec.ofNat 42 (tableWord nbits w))).toOption
  else none

end Sys2Proof
end

