-- ==== Sys2Proof/Machine/State.lean ====
section
/-! DEFINITION. The state of the model: the ports of the block (10_state.md R18), and beside them the
caller's side of a run (70_reset_and_hazards.md R115). The block itself has no architectural state: no
register, no memory, no program counter and no flag (10_state.md R13 to R17, R27, R28). -/

namespace Sys2Proof.Machine

/-- The ports, and the run's requests and observation. -/
structure State where
  /-- Port `req_op` (10_state.md R18). -/
  reqOp : Op
  /-- Port `req_len` (10_state.md R18). -/
  reqLen : Len
  /-- Port `req_din` (10_state.md R18). -/
  reqDin : Data
  /-- Port `rsp_err` (10_state.md R18). -/
  rspErr : Err
  /-- Port `rsp_dout` (10_state.md R18). -/
  rspDout : Data
  /-- The MODEL's own: the requests the caller will still present, next one first
  (70_reset_and_hazards.md R115, log entry 1). -/
  pending : List ReqWord
  /-- The MODEL's own: the observation of the run, oldest pair first (70_reset_and_hazards.md R115, log
  entry 5). -/
  observed : List (ReqWord × RspWord)
deriving DecidableEq, Repr

/-- The block has no fault: every error is an ordinary response (60_exceptions.md R91, R95, R100). So no
step and no instruction ends in a fault, and the type has no constructor (log entry 9; safe). -/
inductive Fault where
deriving DecidableEq, Repr

/-- Why the model takes no step. -/
inductive Refusal where
  /-- An instruction without a meaning. No arm of `exec` raises it: every instruction has its meaning (safe). -/
  | notModelled (mnemonic : String)
  /-- `step` raises it when the caller has no request left: "A run ends after its last request"
  (70_reset_and_hazards.md R115). No instruction raises it (log entry 2; safe). -/
  | noRequest
deriving DecidableEq, Repr

/-- The error codes of 30_encoding.md R53; the value 0b11 has no name and is never produced. -/
inductive ErrCode where
  | ok
  | invalidInput
  | reservedOp
deriving DecidableEq, Repr

/-- The model before any request. The spec has nothing to reset (70_reset_and_hazards.md R108). The request
ports hold 0 (DESIGN CHOICE, log entry 3); the response ports hold the response to that request, RESERVED_OP
with `dout = 0` (DEDUCED, log entry 4); no request is waiting and none has been observed. -/
def State.reset : State where
  reqOp := 0
  reqLen := 0
  reqDin := 0
  rspErr := 0b10
  rspDout := 0
  pending := []
  observed := []

end Sys2Proof.Machine
end

