-- ==== Sys2Proof/Machine/Ops.lean ====
section
/-! DEFINITION. The operations on the ports: presenting a request, driving a response, raising an error, and
recording what a run observes. -/

namespace Sys2Proof.Machine

/-- The bits of an error code (30_encoding.md R53). -/
def ErrCode.code : ErrCode → Err
  | .ok => 0b00
  | .invalidInput => 0b01
  | .reservedOp => 0b10

/-- The word on the request ports, `req_op ‖ req_len ‖ req_din` (10_state.md R18). -/
def State.reqPort (s : State) : ReqWord := reqWord s.reqOp s.reqLen s.reqDin

/-- `err ‖ dout` (30_encoding.md R45). -/
def rspWord (err : Err) (dout : Data) : RspWord := err ++ dout

/-- The word on the response ports, `rsp_err ‖ rsp_dout` (10_state.md R18). -/
def State.rspPort (s : State) : RspWord := rspWord s.rspErr s.rspDout

/-- The caller puts the request `w` on the request ports and has `rest` left to present. -/
def State.present (s : State) (w : ReqWord) (rest : List ReqWord) : State :=
  { s with reqOp := opField w, reqLen := lenField w, reqDin := dinField w, pending := rest }

/-- The next request of the run, put on the request ports; none after the last one
(70_reset_and_hazards.md R115). -/
def nextRequest (s : State) : Option State :=
  match s.pending with
  | [] => none
  | w :: rest => some (s.present w rest)

/-- `respond(err, dout)`: drive the response ports (00_scope.md R11). Nothing else changes
(20_memory.md R38). -/
def respond (e : ErrCode) (dout : Data) (s : State) : State :=
  { s with rspErr := e.code, rspDout := dout }

/-- The error code a raised error answers with (60_exceptions.md R91). -/
def errCodeOf : DecodeError → ErrCode
  | .reservedOp _ => .reservedOp
  | .invalidInput _ => .invalidInput

/-- `raise e`: the error response, with `dout = 0` (00_scope.md R11, 60_exceptions.md R95). It is all the
exception taking this block has: nothing is saved and nothing is redirected (60_exceptions.md R100), so
there is nothing to return from (R101). -/
def raise (e : DecodeError) (s : State) : State := respond (errCodeOf e) 0 s

/-- Record the pair on the ports in the run's observation (70_reset_and_hazards.md R115). -/
def record (s : State) : State := { s with observed := s.observed ++ [(s.reqPort, s.rspPort)] }

end Sys2Proof.Machine
end

