-- ==== Sys2Proof/Machine/BlockCoder.lean ====
section
/-! DEFINITION. The Block Coder: `enc7`, `dec7`, and the meanings of ENC and DEC (40_block_coder.md). -/

namespace Sys2Proof.Machine

/-- `enc7` (40_block_coder.md R56). -/
def enc7 (n : DataUnit) : Codeword :=
  let d3 := n.getLsbD 3
  let d2 := n.getLsbD 2
  let d1 := n.getLsbD 1
  let d0 := n.getLsbD 0
  let p1 := d3 ^^ d2 ^^ d0
  let p2 := d3 ^^ d1 ^^ d0
  let p4 := d2 ^^ d1 ^^ d0
  BitVec.ofBool p1 ++ BitVec.ofBool p2 ++ BitVec.ofBool d3 ++ BitVec.ofBool p4 ++ BitVec.ofBool d2
    ++ BitVec.ofBool d1 ++ BitVec.ofBool d0

/-- What `dec7` returns (40_block_coder.md R63): the DataUnit, the syndrome, the Corrected bit and the
corrected codeword. -/
structure Decoded where
  n : DataUnit
  syn : Syndrome
  cor : BitVec 1
  cc : Codeword
deriving DecidableEq, Repr

/-- Flip position `syn` of a codeword; nothing for 0 (40_block_coder.md R61, R63). -/
def correct (cw : Codeword) (syn : Syndrome) : Codeword :=
  if syn = 0 then cw else cw ^^^ (1#7 <<< (7 - syn.toNat))

/-- The DataUnit at positions 3, 5, 6 and 7 (40_block_coder.md R62). -/
def extractUnit (cc : Codeword) : DataUnit :=
  BitVec.ofBool (pos cc 3) ++ BitVec.ofBool (pos cc 5) ++ BitVec.ofBool (pos cc 6)
    ++ BitVec.ofBool (pos cc 7)

/-- `dec7`, total over all 128 codewords (40_block_coder.md R63). -/
def dec7 (cw : Codeword) : Decoded :=
  let syn := syndrome cw
  let cc := correct cw syn
  { n := extractUnit cc, syn := syn, cor := corrected syn, cc := cc }

/-- DEC's result word, `cc ‖ cor ‖ syn ‖ n` zero-extended (40_block_coder.md R67). -/
def decResult (d : Decoded) : Data := (d.cc ++ d.cor ++ d.syn ++ d.n).setWidth 32

/-- ENC (40_block_coder.md R58). -/
def execEnc (n : DataUnit) (s : State) : Host.Outcome State Fault Refusal :=
  .next (respond .ok ((enc7 n).setWidth 32) s)

/-- DEC (40_block_coder.md R67). A multi-bit error is no error here (R66, 60_exceptions.md R97). -/
def execDec (cw : Codeword) (s : State) : Host.Outcome State Fault Refusal :=
  .next (respond .ok (decResult (dec7 cw)) s)

end Sys2Proof.Machine
end

