-- ==== Sys2Proof/Machine/SplitPack.lean ====
section
/-! DEFINITION. The bit packer, the bit unpacker and the sample conditioning: the meanings of PACK, UNPACK and
ABS16 (41_split_pack.md). -/

namespace Sys2Proof.Machine

/-- `abs16`: the magnitude of a two's-complement sample (41_split_pack.md R78). -/
def abs16 (x : Sample) : Sample := if x.getLsbD 15 = false then x else -x

/-- PACK (41_split_pack.md R73). The decoder has already turned a count above 32 away; the meaning answers
it the same way (log entry 10). -/
def execPack (n : Len) (din : Data) (s : State) : Host.Outcome State Fault Refusal :=
  if n ≤ Config.packMax then .next (respond .ok (pack n.toNat (seqOperand n.toNat din)) s)
  else .next (raise (.invalidInput .pack) s)

/-- UNPACK (41_split_pack.md R75). The decoder has already turned a count above 32 away; the meaning answers
it the same way (log entry 10). -/
def execUnpack (n : Len) (din : Data) (s : State) : Host.Outcome State Fault Refusal :=
  if n ≤ Config.packMax then .next (respond .ok (unpack n.toNat din) s)
  else .next (raise (.invalidInput .unpack) s)

/-- ABS16 (41_split_pack.md R79). -/
def execAbs16 (x : Sample) (s : State) : Host.Outcome State Fault Refusal :=
  .next (respond .ok ((abs16 x).setWidth 32) s)

end Sys2Proof.Machine
end

