-- ==== Sys2Proof/Machine/Frame.lean ====
section
/-! DEFINITION. The frame assembler and the frame decoder: the meanings of FRAME, FRAMES and DEFRAME
(42_frame.md). -/

namespace Sys2Proof.Machine

/-- The 28-bit stream of a value: each unit encoded, in unit order (42_frame.md R81). -/
def streamOf (v : Sample) : BitStream :=
  concat28 (enc7 (unitOf 0 v)) (enc7 (unitOf 1 v)) (enc7 (unitOf 2 v)) (enc7 (unitOf 3 v))

/-- `encodeSample16` (42_frame.md R81). -/
def encodeSample16 (v : Sample) : Data := pack 28 ((streamOf v).setWidth 32)

/-- The 28-bit stream of a frame; its padding is ignored (42_frame.md R85). -/
def frameStream (w : Data) : BitStream := (unpack 28 w).setWidth 28

/-- Lane `k` of a frame, decoded (42_frame.md R85). -/
def laneOf (k : Fin 4) (w : Data) : Decoded := dec7 (codewordOf k (frameStream w))

/-- The 16-bit value of a frame (42_frame.md R85). -/
def frameValue (w : Data) : Sample :=
  join16 (laneOf 0 w).n (laneOf 1 w).n (laneOf 2 w).n (laneOf 3 w).n

/-- `decodeSample16` in DEFRAME's result layout, `cor_0 ‖ … ‖ cor_3 ‖ syn_0 ‖ … ‖ syn_3 ‖ v`
(42_frame.md R85, R86). -/
def deframeResult (w : Data) : Data :=
  (laneOf 0 w).cor ++ (laneOf 1 w).cor ++ (laneOf 2 w).cor ++ (laneOf 3 w).cor
    ++ (laneOf 0 w).syn ++ (laneOf 1 w).syn ++ (laneOf 2 w).syn ++ (laneOf 3 w).syn
    ++ frameValue w

/-- FRAME (42_frame.md R82). -/
def execFrame (v : Sample) (s : State) : Host.Outcome State Fault Refusal :=
  .next (respond .ok (encodeSample16 v) s)

/-- DEFRAME (42_frame.md R86). No operand value is an error (R90). -/
def execDeframe (w : Data) (s : State) : Host.Outcome State Fault Refusal :=
  .next (respond .ok (deframeResult w) s)

/-- FRAMES (42_frame.md R83). The sign is lost, as the reference loses it (R84). -/
def execFrames (x : Sample) (s : State) : Host.Outcome State Fault Refusal :=
  .next (respond .ok (encodeSample16 (abs16 x)) s)

end Sys2Proof.Machine
end

