-- ==== Sys2Proof/Machine/Dispatch.lean ====
section
/-! DEFINITION. One arm for each constructor of `Instr`: the `case` of 30_encoding.md R49. -/

namespace Sys2Proof.Machine

def exec (i : Instr) (s : State) : Host.Outcome State Fault Refusal :=
  match i with
  | .enc n => Sys2Proof.Machine.execEnc n s
  | .dec cw => Sys2Proof.Machine.execDec cw s
  | .pack n din => Sys2Proof.Machine.execPack n din s
  | .unpack n din => Sys2Proof.Machine.execUnpack n din s
  | .frame v => Sys2Proof.Machine.execFrame v s
  | .deframe w => Sys2Proof.Machine.execDeframe w s
  | .frames x => Sys2Proof.Machine.execFrames x s
  | .abs16 x => Sys2Proof.Machine.execAbs16 x s

end Sys2Proof.Machine
end

