-- ==== Sys2Proof/Machine/Step.lean ====
section
/-! DEFINITION. The step of 70_reset_and_hazards.md R115: one settled request, and its response. -/

namespace Sys2Proof.Machine

/-- What a step adds to the outcome of an instruction: the pair on the ports is recorded. -/
def recordOutcome : Host.Outcome State Fault Refusal → Host.Outcome State Fault Refusal
  | .next t => .next (record t)
  | .fault f => .fault f
  | .refused r => .refused r

/-- One step: the next request goes on the request ports, is decoded, and is answered by its meaning or by
the error it raises (30_encoding.md R49). The run ends when no request is left
(70_reset_and_hazards.md R115). -/
def step (s : State) : Host.Outcome State Fault Refusal :=
  match nextRequest s with
  | none => .refused .noRequest
  | some t =>
    match decode t.reqPort with
    | .error e => .next (record (raise e t))
    | .ok i => recordOutcome (exec i t)

/-- `s` with the request numbered `w` as the one the next step evaluates, in the place of the one that was
next (log entries 1 and 11). -/
def State.withFetchWord (s : State) (nbits w : Nat) : State :=
  { s with pending := BitVec.ofNat 42 (tableWord nbits w) :: s.pending.drop 1 }

end Sys2Proof.Machine
end

