-- ==== Sys2Proof/Machine/Assembler.lean ====
section
/-! DEFINITION. The assembler's text form (30_encoding.md R54): a line is read into a mnemonic and operands,
and assembled into request words. It is no part of `step`: the syntax does not reach the hardware (decision
D22). Lexical details the rule leaves open are log entry 13. -/

namespace Sys2Proof.Machine.Asm

/-- An operand as it is written. -/
inductive Operand where
  /-- A number; only a decimal may be negative. -/
  | num (v : Int)
  /-- A bit list, element 0 first. -/
  | bits (l : List Bool)
deriving DecidableEq, Repr

/-- What can be wrong with a line. -/
inductive AsmError where
  /-- The line has no mnemonic, or one that R54 does not name. -/
  | unknownMnemonic
  /-- An operand is neither a number nor a bit list. -/
  | malformedOperand
  /-- Too few or too many operands: "Omitted operands are an assembly error, not a default". -/
  | operandCount
  /-- A number outside the operand's range. -/
  | outOfRange
  /-- A bit list of the wrong length, the list-level InvalidInput (60_exceptions.md R93). -/
  | bitListLength
deriving DecidableEq, Repr

/-- A line as it is read: the mnemonic and the operands. -/
structure Line where
  mnemonic : List Char
  operands : List Operand
deriving DecidableEq, Repr

/-! ### Reading a line -/

/-- A blank that separates tokens. -/
def isBlank (c : Char) : Bool := c = ' ' || c = '\t'

/-- The text without blanks at its two ends. -/
def trim (l : List Char) : List Char := ((l.dropWhile isBlank).reverse.dropWhile isBlank).reverse

/-- The digits of `<hex>`, each in the place of its value; `<decimal>` and `<binary>` use the first ten and the
first two. -/
def hexDigits : List Char := "0123456789ABCDEF".toList

/-- The value of a digit: its place among the first `base` digits, a letter in either case (log entry 13). -/
def digit (base : Nat) (c : Char) : Option Nat := (hexDigits.take base).idxOf? c.toUpper

/-- The digits of a number read so far give `acc`. -/
def digits (base : Nat) : List Char → Nat → Option Nat
  | [], acc => some acc
  | c :: cs, acc => (digit base c).bind fun d => digits base cs (acc * base + d)

/-- A number without a sign; it has at least one digit. -/
def natural (base : Nat) (l : List Char) : Option Nat :=
  if l = [] then none else digits base l 0

/-- `number := 0x<hex> | 0b<binary> | <decimal> | -<decimal>`. -/
def number (l : List Char) : Option Int :=
  match l with
  | '0' :: 'x' :: ds => (natural 16 ds).map Int.ofNat
  | '0' :: 'b' :: ds => (natural 2 ds).map Int.ofNat
  | '-' :: ds => (natural 10 ds).map fun n => -(Int.ofNat n)
  | ds => (natural 10 ds).map Int.ofNat

/-- The text cut at its commas; a comma between brackets cuts nothing. -/
def splitCommas : List Char → Bool → List Char → List (List Char)
  | [], _, cur => [cur.reverse]
  | c :: cs, inside, cur =>
    if c = ',' ∧ inside = false then cur.reverse :: splitCommas cs inside []
    else splitCommas cs (if c = '[' then true else if c = ']' then false else inside) (c :: cur)

/-- `bit := 0 | 1`. -/
def bit (l : List Char) : Option Bool :=
  if trim l = ['0'] then some false else if trim l = ['1'] then some true else none

/-- `bitlist := '[' bit (',' bit)* ']' | '[]'`, the text after the opening bracket. -/
def bitList (l : List Char) : Option (List Bool) :=
  match l.reverse with
  | ']' :: body =>
    if trim body.reverse = [] then some [] else (splitCommas body.reverse false []).mapM bit
  | _ => none

/-- One operand. -/
def operand (l : List Char) : Option Operand :=
  match trim l with
  | '[' :: rest => (bitList rest).map Operand.bits
  | t => (number t).map Operand.num

/-- `line := mnemonic operands? comment?`. -/
def parse (text : List Char) : Except AsmError Line :=
  let body := trim (text.takeWhile (· ≠ ';'))
  let mnemonic := body.takeWhile fun c => !isBlank c
  let rest := trim (body.drop mnemonic.length)
  if rest = [] then .ok ⟨mnemonic, []⟩
  else
    match (splitCommas rest false []).mapM operand with
    | some ops => .ok ⟨mnemonic, ops⟩
    | none => .error .malformedOperand

/-! ### Assembling a line -/

/-- The number a bit list stands for, element 0 the most significant (10_state.md R20, R21, R26). -/
def bitListValue (l : List Bool) : Nat := l.foldl (fun a b => 2 * a + b.toNat) 0

/-- An operand that is a number below `2 ^ width` or a bit list of exactly `width` bits. -/
def numberOrBits (width : Nat) : Operand → Except AsmError (BitVec width)
  | .num v => if 0 ≤ v ∧ v.toNat < 2 ^ width then .ok (BitVec.ofNat width v.toNat) else .error .outOfRange
  | .bits l => if l.length = width then .ok (BitVec.ofNat width (bitListValue l)) else .error .bitListLength

/-- An operand that is a number below `2 ^ width`. -/
def numberBelow (width : Nat) : Operand → Except AsmError (BitVec width)
  | .num v => if 0 ≤ v ∧ v.toNat < 2 ^ width then .ok (BitVec.ofNat width v.toNat) else .error .outOfRange
  | .bits _ => .error .malformedOperand

/-- `sample16`: -32768 to 65535, a negative decimal taken modulo 2^16. -/
def sample16 : Operand → Except AsmError Sample
  | .num v => if -32768 ≤ v ∧ v ≤ 65535 then .ok (BitVec.ofInt 16 v) else .error .outOfRange
  | .bits _ => .error .malformedOperand

/-- `n`: a bit count, 0 to 32. -/
def bitCount : Operand → Except AsmError Len
  | .num v => if 0 ≤ v ∧ v.toNat ≤ 32 then .ok (BitVec.ofNat 6 v.toNat) else .error .outOfRange
  | .bits _ => .error .malformedOperand

/-- `PACK n, bits`, with `bits < 2^n`. -/
def packOperands (n : Len) : Operand → Except AsmError Instr
  | .num v =>
    if 0 ≤ v ∧ v.toNat < 2 ^ n.toNat then .ok (.pack n (BitVec.ofNat 32 v.toNat)) else .error .outOfRange
  | .bits _ => .error .malformedOperand

/-- `PACK bitlist`: the count is the list's length. -/
def packBitList : Operand → Except AsmError Instr
  | .num _ => .error .operandCount
  | .bits l =>
    if l.length ≤ 32 then .ok (.pack (BitVec.ofNat 6 l.length) (BitVec.ofNat 32 (bitListValue l)))
    else .error .bitListLength

/-- The one operand of a line that takes exactly one. -/
def one : List Operand → Except AsmError Operand
  | [o] => .ok o
  | _ => .error .operandCount

/-- The codes of the source's acceptance scenario, `ENC 0xB`, `DEC 0x33`, `DEC 0x32` (30_encoding.md R54,
90_conflicts.md C2). -/
def selfTest : List Instr := [.enc 0xB, .dec 0x33, .dec 0x32]

/-- The request words of a line (30_encoding.md R54). -/
def assemble (l : Line) : Except AsmError (List ReqWord) :=
  let single (i : Except AsmError Instr) : Except AsmError (List ReqWord) := i.map fun i => [encode i]
  if l.mnemonic = "ENC".toList then single ((one l.operands).bind fun o => (numberOrBits 4 o).map .enc)
  else if l.mnemonic = "DEC".toList then single ((one l.operands).bind fun o => (numberOrBits 7 o).map .dec)
  else if l.mnemonic = "PACK".toList then
    single (match l.operands with
      | [o] => packBitList o
      | [o, b] => (bitCount o).bind fun n => packOperands n b
      | _ => .error .operandCount)
  else if l.mnemonic = "UNPACK".toList then
    single (match l.operands with
      | [o, b] => (bitCount o).bind fun n => (numberBelow 32 b).map (.unpack n)
      | _ => .error .operandCount)
  else if l.mnemonic = "FRAME".toList then
    single ((one l.operands).bind fun o => (numberBelow 16 o).map .frame)
  else if l.mnemonic = "DEFRAME".toList then
    single ((one l.operands).bind fun o => (numberBelow 32 o).map .deframe)
  else if l.mnemonic = "FRAMES".toList then single ((one l.operands).bind fun o => (sample16 o).map .frames)
  else if l.mnemonic = "ABS16".toList then single ((one l.operands).bind fun o => (sample16 o).map .abs16)
  else if l.mnemonic = ".req".toList then ((one l.operands).bind (numberBelow 42)).map fun w => [w]
  else if l.mnemonic = "SELFTEST".toList then
    if l.operands = [] then .ok (selfTest.map encode) else .error .operandCount
  else .error .unknownMnemonic

/-- The request words of a line of text. -/
def assembleText (text : List Char) : Except AsmError (List ReqWord) := (parse text).bind assemble

/-! ### Writing a response -/

/-- A hexadecimal digit, as the spec's examples write it. -/
def hexDigit (d : BitVec 4) : Char := hexDigits.getD d.toNat '0'

/-- Eight hexadecimal digits, the most significant first. -/
def hex8 (w : Data) : List Char := (List.range 8).map fun i => hexDigit (w.extractLsb' (28 - 4 * i) 4)

/-- `-> OK 0x<8 hex digits>`, `-> INVALID_INPUT 0x00000000` or `-> RESERVED_OP 0x00000000`; nothing for the
code 0b11, which is never produced (30_encoding.md R53, R54). -/
def responseText (err : Err) (dout : Data) : Option (List Char) :=
  match err with
  | 0b00#2 => some ("-> OK 0x".toList ++ hex8 dout)
  | 0b01#2 => some ("-> INVALID_INPUT 0x".toList ++ hex8 dout)
  | 0b10#2 => some ("-> RESERVED_OP 0x".toList ++ hex8 dout)
  | _ => none

end Sys2Proof.Machine.Asm
end

