-- ==== Sys2Proof/Machine/ListLevel.lean ====
section
/-! DEFINITION. The list level: the source's contracts over lists of bits (00_scope.md R12). It is no part of
`step`; the word level is the behaviour at the ports. A bit is a natural number, so that an element outside
{0,1} can be written and rejected (60_exceptions.md R93). Elements stand in the source's order, element 0
first (00_scope.md R9). -/

namespace Sys2Proof.Machine.ListLevel

/-- The source's InvalidInput, an explicit error result (60_exceptions.md R93). -/
inductive ListError where
  | invalidInput
deriving DecidableEq, Repr

/-- The word `w` as the list of its bits, most significant first (10_state.md R20, R21, R24, R26). -/
def bitsOf (n : Nat) (w : BitVec n) : List Nat :=
  (List.range n).map fun j => (w.getLsbD (n - 1 - j)).toNat

/-- Every element is 0 or 1. -/
def allBits (l : List Nat) : Bool := l.all (· < 2)

/-- `encode` (40_block_coder.md R55). -/
def encode : List Nat → Except ListError (List Nat)
  | [d3, d2, d1, d0] =>
    if allBits [d3, d2, d1, d0] then
      .ok [d3 ^^^ d2 ^^^ d0, d3 ^^^ d1 ^^^ d0, d3, d2 ^^^ d1 ^^^ d0, d2, d1, d0]
    else .error .invalidInput
  | _ => .error .invalidInput

/-- What `decode` returns (40_block_coder.md R59). -/
structure ListDecoded where
  unit : List Nat
  syndrome : Nat
  corrected : Bool
  codeword : List Nat
deriving DecidableEq, Repr

/-- The syndrome of a list of seven bits, `s1 + 2·s2 + 4·s4` (40_block_coder.md R60). -/
def syndromeOf (c : List Nat) : Nat :=
  let c1 := c.getD 0 0
  let c2 := c.getD 1 0
  let c3 := c.getD 2 0
  let c4 := c.getD 3 0
  let c5 := c.getD 4 0
  let c6 := c.getD 5 0
  let c7 := c.getD 6 0
  (c1 ^^^ c3 ^^^ c5 ^^^ c7) + 2 * (c2 ^^^ c3 ^^^ c6 ^^^ c7) + 4 * (c4 ^^^ c5 ^^^ c6 ^^^ c7)

/-- Flip the element at 1-indexed position `p` (40_block_coder.md R61). -/
def flipAt (c : List Nat) (p : Nat) : List Nat := c.set (p - 1) (1 - c.getD (p - 1) 0)

/-- `decode` (40_block_coder.md R59 to R62). -/
def decode (c : List Nat) : Except ListError ListDecoded :=
  if c.length = 7 ∧ allBits c then
    let syn := syndromeOf c
    let cc := if syn = 0 then c else flipAt c syn
    .ok { unit := [cc.getD 2 0, cc.getD 4 0, cc.getD 5 0, cc.getD 6 0], syndrome := syn,
          corrected := syn ≠ 0, codeword := cc }
  else .error .invalidInput

/-- `bits` of a nibble (41_split_pack.md R68). -/
def nibbleBits (n : Nat) : List Nat :=
  [(n >>> 3) &&& 1, (n >>> 2) &&& 1, (n >>> 1) &&& 1, n &&& 1]

/-- `split16` (41_split_pack.md R68). -/
def split16 (v : Nat) : List (List Nat) :=
  [nibbleBits ((v >>> 12) &&& 0xF), nibbleBits ((v >>> 8) &&& 0xF), nibbleBits ((v >>> 4) &&& 0xF),
   nibbleBits (v &&& 0xF)]

/-- `concat28` (41_split_pack.md R70). -/
def concat28 (cs : List (List Nat)) : List Nat := cs.flatten

/-- `byte_i` of a bit list (41_split_pack.md R71): a bit past the end counts as 0. -/
def packedByte (bits : List Nat) (i : Nat) : Nat :=
  ((List.range 8).map fun t => bits.getD (8 * i + t) 0 * 2 ^ (7 - t)).sum

/-- `packBits` (41_split_pack.md R71). -/
def packBits (bits : List Nat) : List Nat :=
  (List.range ((bits.length + 7) / 8)).map (packedByte bits)

/-- `unpackBits` for a known bit count; too few bytes is InvalidInput (41_split_pack.md R74). -/
def unpackBits (n : Nat) (bytes : List Nat) : Except ListError (List Nat) :=
  if bytes.length < (n + 7) / 8 then .error .invalidInput
  else .ok ((List.range n).map fun j => (bytes.getD (j / 8) 0 >>> (7 - j % 8)) &&& 1)

/-- `split28`: the four groups of seven (41_split_pack.md R76). -/
def split28 (S : List Nat) : List (List Nat) :=
  (List.range 4).map fun k => (S.drop (7 * k)).take 7

/-- The number a bit list stands for, most significant first. -/
def valueOf (bits : List Nat) : Nat := bits.foldl (fun a b => 2 * a + b) 0

/-- `join16` (41_split_pack.md R77). -/
def join16 (units : List (List Nat)) : Nat := valueOf units.flatten

/-- `abs(sample) & 0xFFFF` of a signed sample (41_split_pack.md R78). -/
def conditioned (x : Int) : Nat := x.natAbs &&& 0xFFFF

/-- `encodeSample16` (42_frame.md R81): split, encode each unit in order, concatenate, pack. -/
def encodeSample16 (v : Nat) : Except ListError (List Nat) :=
  ((split16 v).mapM encode).map fun cs => packBits (concat28 cs)

/-- What `decodeSample16` returns (42_frame.md R85). -/
structure ListFrame where
  value : Nat
  syndromes : List Nat
  corrected : List Bool
deriving DecidableEq, Repr

/-- `decodeSample16` (42_frame.md R85): unpack, split into groups of seven, decode each, join. -/
def decodeSample16 (bytes : List Nat) : Except ListError ListFrame :=
  (unpackBits 28 bytes).bind fun S =>
    ((split28 S).mapM decode).map fun ds =>
      { value := join16 (ds.map (·.unit)), syndromes := ds.map (·.syndrome),
        corrected := ds.map (·.corrected) }

/-- The bytes of a left-aligned word, byte 0 first (10_state.md R25). -/
def bytesOf (w : Data) : List Nat :=
  [(byteOf 0 w).toNat, (byteOf 1 w).toNat, (byteOf 2 w).toNat, (byteOf 3 w).toNat]

end Sys2Proof.Machine.ListLevel
end

