-- ==== Sys2Proof/Machine/Respond.lean ====
section
/-! DEFINITION. `Respond`, the response as a pure function of the request word (10_state.md R19), written
beside the machine from the port-level error table (60_exceptions.md R92, R94) and the operation rules,
with no decoder and no state. `step` is claimed equal to it. -/

namespace Sys2Proof.Machine

/-- The error code and the result for one request. Each operation code has its own check, from
60_exceptions.md R92; every other code is reserved (R94). -/
def answer (op : Op) (len : Len) (din : Data) : ErrCode × Data :=
  match op with
  | 0x1#4 =>
    if len = 0 ∧ din >>> 4 = 0 then (.ok, (enc7 (din.setWidth 4)).setWidth 32) else (.invalidInput, 0)
  | 0x2#4 =>
    if len = 0 ∧ din >>> 7 = 0 then (.ok, decResult (dec7 (din.setWidth 7))) else (.invalidInput, 0)
  | 0x3#4 =>
    if len.toNat ≤ 32 then (.ok, pack len.toNat (seqOperand len.toNat din)) else (.invalidInput, 0)
  | 0x4#4 =>
    if len.toNat ≤ 32 then (.ok, unpack len.toNat din) else (.invalidInput, 0)
  | 0x5#4 =>
    if len = 0 ∧ din >>> 16 = 0 then (.ok, encodeSample16 (din.setWidth 16)) else (.invalidInput, 0)
  | 0x6#4 =>
    if len = 0 then (.ok, deframeResult din) else (.invalidInput, 0)
  | 0x7#4 =>
    if len = 0 ∧ din >>> 16 = 0 then (.ok, encodeSample16 (abs16 (din.setWidth 16)))
    else (.invalidInput, 0)
  | 0x8#4 =>
    if len = 0 ∧ din >>> 16 = 0 then (.ok, (abs16 (din.setWidth 16)).setWidth 32)
    else (.invalidInput, 0)
  | _ => (.reservedOp, 0)

/-- `Respond(req)` (10_state.md R19): the response word to a request word. -/
def respondTo (w : ReqWord) : RspWord :=
  let r := answer (opField w) (lenField w) (dinField w)
  rspWord r.1.code r.2

/-- The `k`-th sample of the response port, taken when the request `w` has been held for `held` units of
time: `Respond` once it has been held for `T_SETTLE`, any value before (70_reset_and_hazards.md R111; log
entry 7). The untimed `step` never takes an unsettled sample (R115). -/
def sampleResponse (k held : Nat) (w : ReqWord) : RspWord :=
  if Config.tSettle ≤ held then respondTo w else Config.unsettledResponse k

end Sys2Proof.Machine
end

