-- ==== Sys2Proof/Safety.lean ====
section
/-! DEFINITION. What a safe run of the block is: the response ports always show the response to the word on
the request ports, and every pair observed is a request with its own response (10_state.md R19,
20_memory.md R39, 70_reset_and_hazards.md R108). -/

namespace Sys2Proof.Machine

/-- The invariant of a run. -/
structure State.Inv (s : State) : Prop where
  /-- The response ports show `Respond` of the request ports (70_reset_and_hazards.md R108). -/
  ports : s.rspPort = respondTo s.reqPort
  /-- Each observed response is `Respond` of its own request (20_memory.md R39). -/
  pairs : ∀ p ∈ s.observed, p.2 = respondTo p.1

/-- The state after the request `w` has been answered with the code `e` and the result `dout`, the requests
`rest` being left: the request ports hold `w`, the response ports hold the answer, and the pair has joined
the observation. Every field is named, so an equation with it says what changed and what did not. -/
def State.answered (s : State) (w : ReqWord) (rest : List ReqWord) (e : ErrCode) (dout : Data) : State where
  reqOp := opField w
  reqLen := lenField w
  reqDin := dinField w
  rspErr := e.code
  rspDout := dout
  pending := rest
  observed := s.observed ++ [(w, rspWord e.code dout)]

/-- The checks of 60_exceptions.md R92, operation by operation: the operand fields do not fit. -/
def InvalidOperands (op : Op) (len : Len) (din : Data) : Prop :=
  (op = 0x1 ∧ (len ≠ 0 ∨ din.extractLsb' 4 28 ≠ 0)) ∨
  (op = 0x2 ∧ (len ≠ 0 ∨ din.extractLsb' 7 25 ≠ 0)) ∨
  (op = 0x3 ∧ 32 < len.toNat) ∨
  (op = 0x4 ∧ 32 < len.toNat) ∨
  (op = 0x5 ∧ (len ≠ 0 ∨ din.extractLsb' 16 16 ≠ 0)) ∨
  (op = 0x6 ∧ len ≠ 0) ∨
  (op = 0x7 ∧ (len ≠ 0 ∨ din.extractLsb' 16 16 ≠ 0)) ∨
  (op = 0x8 ∧ (len ≠ 0 ∨ din.extractLsb' 16 16 ≠ 0))

/-- A reserved operation code (30_encoding.md R47, R50). -/
def Reserved (op : Op) : Prop := op = 0x0 ∨ (0x9 ≤ op.toNat ∧ op.toNat ≤ 0xF)

/-- The codeword with only position `p` set, `1 ≤ p ≤ 7`: flipping position `p` is exclusive-or with it
(40_block_coder.md R63). -/
def posMask (p : Nat) : Codeword := 1#7 <<< (7 - p)

/-- The 1-indexed positions that an error pattern flips, in rising order (40_block_coder.md R66). -/
def errorPositions (e : Codeword) : List Nat := [1, 2, 3, 4, 5, 6, 7].filter (pos e)

end Sys2Proof.Machine
end

