-- ==== Sys2Proof/Certificates/Slice0/Obligations.lean ====
section
/-! DEFINITION. The statements for the provers. Each docstring names the rule of spec/ it formalises. -/

open Sys2Proof Sys2Proof.Machine

/-! ### Encoding and decoding -/

/-- 30_encoding.md R44, R47, R48: no bit of a legal request is dropped. -/
def Obligations.DecodeInvertsEncode : Prop :=
  ∀ i : Instr, i.wf = true → decode (encode i) = .ok i

/-- 30_encoding.md R44, R47, R48: a legal request word stands for one instruction only. -/
def Obligations.EncodeInvertsDecode : Prop :=
  ∀ (w : ReqWord) (i : Instr), decode w = .ok i → i.wf = true ∧ encode i = w

/-- 30_encoding.md R49, "A request is legal when …". -/
def Obligations.LegalRequestsDecode : Prop :=
  ∀ w : ReqWord, (∃ i, decode w = .ok i) ↔
    ∃ op : OpName, opField w = op.code ∧ w &&& op.mask = op.fixed ∧
      (op = .pack ∨ op = .unpack → (lenField w).toNat ≤ 32)

/-- 30_encoding.md R49: no request word matches two rows of the table. -/
def Obligations.NoRequestMatchesTwoRows : Prop :=
  ∀ (a b : OpName) (w : ReqWord), w &&& a.mask = a.fixed → w &&& b.mask = b.fixed → a = b

/-- 30_encoding.md R44: the places of the fields, the request as a number, and the example. -/
def Obligations.RequestWordIsItsNumber : Prop :=
  (∀ (op : Op) (len : Len) (din : Data),
    (reqWord op len din).toNat = op.toNat * 2 ^ 38 + len.toNat * 2 ^ 32 + din.toNat) ∧
  (∀ w : ReqWord, opField w = w.extractLsb' 38 4 ∧ lenField w = w.extractLsb' 32 6 ∧
    dinField w = w.extractLsb' 0 32 ∧ reqWord (opField w) (lenField w) (dinField w) = w) ∧
  (∀ n din, (encode (.pack n din)).toNat = 3 * 2 ^ 38 + n.toNat * 2 ^ 32 + din.toNat) ∧
  encode (.enc 0xB) = 0x0400000000B

/-- 30_encoding.md R47, R48: one word of each operation, written out from the encoding, and two reserved words. -/
def Obligations.WordsOfEachOperationDecode : Prop :=
  decode 0b000100000000000000000000000000000000001011 = .ok (.enc 0xB) ∧
  decode 0b001000000000000000000000000000000000110010 = .ok (.dec 0x32) ∧
  decode 0b001100100100000000000000000000000111111111 = .ok (.pack 9 0x1FF) ∧
  decode 0b010001110011010010101010100001110011001001 = .ok (.unpack 28 0xD2AA1CC9) ∧
  decode 0b010100000000000000000000000001001000110100 = .ok (.frame 0x1234) ∧
  decode 0b011000000011010010111010100001110011000000 = .ok (.deframe 0xD2EA1CC0) ∧
  decode 0b011100000000000000000000001111111111111011 = .ok (.frames 0xFFFB) ∧
  decode 0b100000000000000000000000001111111111111011 = .ok (.abs16 0xFFFB) ∧
  decode 0b000000000000000000000000000000000000001011 = .error (.reservedOp 0x0) ∧
  decode 0b101000000000000000000000000000000000000000 = .error (.reservedOp 0xA)

/-! ### A step and a run -/

/-- 30_encoding.md R49 and 70_reset_and_hazards.md R115: a step puts the next request on the ports, runs the
instruction it decodes to (or raises its error), and records the pair. -/
def Obligations.StepRunsDecodedInstruction : Prop :=
  ∀ (s : State) (w : ReqWord) (rest : List ReqWord), s.pending = w :: rest →
    (∀ i, decode w = .ok i → step s = recordOutcome (exec i (s.present w rest))) ∧
    (∀ e, decode w = .error e → step s = .next (record (raise e (s.present w rest))))

/-- 10_state.md R19: the response is `Respond` of the request, whatever the state; every field of the next
state is named. -/
def Obligations.StepAnswersRespond : Prop :=
  (∀ (s : State) (w : ReqWord) (rest : List ReqWord), s.pending = w :: rest →
    ∃ t, step s = .next t ∧ t.rspPort = respondTo w) ∧
  (∀ (s : State) (w : ReqWord) (rest : List ReqWord), s.pending = w :: rest →
    step s = .next (s.answered w rest (answer (opField w) (lenField w) (dinField w)).1
      (answer (opField w) (lenField w) (dinField w)).2))

/-- 70_reset_and_hazards.md R115: one step per request, the observation is the sequence of the pairs, and the
run ends after its last request. The stop is the model's choice of log entry 2. -/
def Obligations.RunObservesItsPairs : Prop :=
  ∀ s : State, ∃ t, Host.Core.run Sys2Proof.core s.pending.length s = .next t ∧
    t.observed = s.observed ++ s.pending.map (fun w => (w, respondTo w)) ∧
    t.pending = [] ∧ step t = .refused .noRequest

/-- 20_memory.md R39: every order of issue gives the same pairing of requests and responses. -/
def Obligations.RequestOrderIsImmaterial : Prop :=
  ∀ s s' : State, s.observed = [] → s'.observed = [] → s.pending.Perm s'.pending →
    ∃ t t', Host.Core.run Sys2Proof.core s.pending.length s = .next t ∧
      Host.Core.run Sys2Proof.core s'.pending.length s' = .next t' ∧
      t.observed.Perm t'.observed ∧
      (∀ p ∈ t.observed, p.2 = respondTo p.1) ∧ (∀ p ∈ t'.observed, p.2 = respondTo p.1)

/-- 20_memory.md R38: evaluating a request again gives the same response, with nothing changed but the
observation and the list of requests left. -/
def Obligations.RepeatedRequestGetsSameResponse : Prop :=
  ∀ (s : State) (w : ReqWord) (rest : List ReqWord), s.pending = w :: w :: rest →
    ∃ t u, step s = .next t ∧ step t = .next u ∧ u.rspPort = t.rspPort ∧
      u = { t with pending := rest, observed := t.observed ++ [(w, t.rspPort)] }

/-- 10_state.md R13, 70_reset_and_hazards.md R112: two machines with any history give the same response to the
same request. -/
def Obligations.ResponseForgetsHistory : Prop :=
  ∀ (s s' : State) (w : ReqWord) (rest rest' : List ReqWord), s.pending = w :: rest → s'.pending = w :: rest' →
    ∃ t t', step s = .next t ∧ step s' = .next t' ∧
      t.reqPort = w ∧ t'.reqPort = w ∧ t.rspErr = t'.rspErr ∧ t.rspDout = t'.rspDout

/-- 10_state.md R19 with the reset ports of log entries 3 and 4, which are the model's choice. -/
def Obligations.RunInvariantAtReset : Prop := State.reset.Inv

/-- 10_state.md R19, 20_memory.md R39, 70_reset_and_hazards.md R108: the response ports show the response to
the request ports, and each observed response is that of its own request, after every step. -/
def Obligations.RunInvariantKept : Prop :=
  ∀ s t : State, s.Inv → step s = .next t → t.Inv

/-- 70_reset_and_hazards.md R108, R110: a request presented straight after power-up is answered like any other;
the reset values of the ports (log entries 3 and 4, the model's choice) do not matter. -/
def Obligations.FirstRequestIsAnsweredLikeAnyOther : Prop :=
  ∀ (w : ReqWord) (s : State), ∃ t u,
    step (State.reset.withFetchWord 48 w.toNat) = .next t ∧ step (s.withFetchWord 48 w.toNat) = .next u ∧
    t.reqPort = w ∧ u.reqPort = w ∧ t.rspPort = respondTo w ∧ u.rspPort = t.rspPort

/-- 70_reset_and_hazards.md R111: a sample of the response port taken when the request has been held for
`T_SETTLE` shows the response that the step gives. Nothing is said of an earlier sample. -/
def Obligations.SettledSampleIsTheResponse : Prop :=
  ∀ (s : State) (w : ReqWord) (rest : List ReqWord) (k held : Nat),
    s.pending = w :: rest → Config.tSettle ≤ held →
    ∃ t, step s = .next t ∧ sampleResponse k held w = t.rspPort

/-! ### Errors -/

/-- 60_exceptions.md R94. -/
def Obligations.ReservedOpsAnswerReservedOp : Prop :=
  ∀ (s : State) (w : ReqWord) (rest : List ReqWord), s.pending = w :: rest →
    (opField w = 0x0 ∨ (0x9 ≤ (opField w).toNat ∧ (opField w).toNat ≤ 0xF)) →
    step s = .next (s.answered w rest .reservedOp 0)

/-- 60_exceptions.md R92: INVALID_INPUT exactly on the table's conditions. -/
def Obligations.InvalidInputExactly : Prop :=
  ∀ (s : State) (w : ReqWord) (rest : List ReqWord), s.pending = w :: rest →
    ∃ t, step s = .next t ∧
      (t.rspErr = 0b01 ↔ InvalidOperands (opField w) (lenField w) (dinField w)) ∧
      (InvalidOperands (opField w) (lenField w) (dinField w) → t = s.answered w rest .invalidInput 0)

/-- 60_exceptions.md R96: RESERVED_OP first, from the operation code alone; then any failing check gives the one
code; a request whose checks pass reports no error. -/
def Obligations.ErrorPriority : Prop :=
  ∀ (s : State) (w : ReqWord) (rest : List ReqWord), s.pending = w :: rest →
    ∃ t, step s = .next t ∧
      (Reserved (opField w) → t.rspErr = 0b10) ∧
      (¬ Reserved (opField w) → InvalidOperands (opField w) (lenField w) (dinField w) → t.rspErr = 0b01) ∧
      (¬ Reserved (opField w) → ¬ InvalidOperands (opField w) (lenField w) (dinField w) → t.rspErr = 0b00)

/-- 60_exceptions.md R95: an error response carries no result, changes nothing else, and the next request is
evaluated normally. -/
def Obligations.ErrorsCarryNoResultAndAreRecoverable : Prop :=
  ∀ (s : State) (w : ReqWord) (rest : List ReqWord) (e : DecodeError),
    s.pending = w :: rest → decode w = .error e →
    ∃ c, c ≠ ErrCode.ok ∧ step s = .next (s.answered w rest c 0) ∧
      ∀ w' rest', rest = w' :: rest' →
        ∃ u, step (s.answered w rest c 0) = .next u ∧ u.rspPort = respondTo w'

/-- 30_encoding.md R45, R53: the code of every response is OK, INVALID_INPUT or RESERVED_OP, `dout` is 0 unless
it is OK, and it is OK exactly for a request that decodes. -/
def Obligations.ErrorCodesOfResponses : Prop :=
  ∀ (s : State) (w : ReqWord) (rest : List ReqWord), s.pending = w :: rest →
    ∃ t, step s = .next t ∧ t.rspErr ≠ 0b11 ∧ (t.rspErr ≠ 0b00 → t.rspDout = 0) ∧
      (t.rspErr = 0b00 ↔ ∃ i, decode w = .ok i) ∧ (t.rspErr = 0b10 ↔ Reserved (opField w))

/-! ### What every instruction does -/

/-- The frame of all eight instructions (20_memory.md R38, 10_state.md R13): only the response ports change. -/
def Obligations.InstructionsDriveOnlyTheResponsePorts : Prop :=
  ∀ (i : Instr) (s t : State), exec i s = .next t →
    t.reqOp = s.reqOp ∧ t.reqLen = s.reqLen ∧ t.reqDin = s.reqDin ∧ t.pending = s.pending ∧
      t.observed = s.observed

/-- 42_frame.md R90, 60_exceptions.md R92, R97, and 20_memory.md R38: every well-formed instruction (of ENC, DEC,
PACK, UNPACK, FRAME, DEFRAME, FRAMES and ABS16) answers OK, with a result that does not depend on the state. -/
def Obligations.WellFormedInstructionsAnswerOk : Prop :=
  ∀ i : Instr, i.wf = true → ∃ d : Data, ∀ s : State, exec i s = .next { s with rspErr := 0b00, rspDout := d }

/-! ### The Block Coder -/

/-- 40_block_coder.md R56: ENC's codeword, bit by bit, the whole table, and its agreement with the list level. -/
def Obligations.EncWritesTheCodeword : Prop :=
  (∀ (n : DataUnit) (s : State),
    let d3 := n.getLsbD 3
    let d2 := n.getLsbD 2
    let d1 := n.getLsbD 1
    let d0 := n.getLsbD 0
    exec (.enc n) s = .next { s with
      rspErr := 0b00
      rspDout := 0#25 ++ BitVec.ofBool (d3 ^^ d2 ^^ d0) ++ BitVec.ofBool (d3 ^^ d1 ^^ d0) ++ BitVec.ofBool d3
        ++ BitVec.ofBool (d2 ^^ d1 ^^ d0) ++ BitVec.ofBool d2 ++ BitVec.ofBool d1 ++ BitVec.ofBool d0 }) ∧
  (List.range 16).map (fun n => enc7 (BitVec.ofNat 4 n)) =
    [0x00, 0x69, 0x2A, 0x43, 0x4C, 0x25, 0x66, 0x0F, 0x70, 0x19, 0x5A, 0x33, 0x3C, 0x55, 0x16, 0x7F] ∧
  (∀ n : DataUnit, ListLevel.encode (ListLevel.bitsOf 4 n) = .ok (ListLevel.bitsOf 7 (enc7 n)))

/-- 40_block_coder.md R57: the three even-parity checks of every codeword, and the positions each covers. -/
def Obligations.CodewordsPassTheParityChecks : Prop :=
  ∀ (n : DataUnit) (s : State), ∃ c : Codeword,
    exec (.enc n) s = .next { s with rspErr := 0b00, rspDout := c.setWidth 32 } ∧
    (pos c 1 ^^ pos c 3 ^^ pos c 5 ^^ pos c 7) = false ∧
    (pos c 2 ^^ pos c 3 ^^ pos c 6 ^^ pos c 7) = false ∧
    (pos c 4 ^^ pos c 5 ^^ pos c 6 ^^ pos c 7) = false ∧
    ∀ k < 3, (([1, 2, 3, 4, 5, 6, 7].filter (fun p => Nat.testBit p k)).foldl (fun a p => a ^^ pos c p) false) = false

/-- 40_block_coder.md R58, ENC at the port. -/
def Obligations.EncRequest : Prop :=
  (∀ (s : State) (w : ReqWord) (rest : List ReqWord), s.pending = w :: rest → opField w = 0x1 →
    (lenField w = 0 → (dinField w).extractLsb' 4 28 = 0 →
      step s = .next (s.answered w rest .ok ((enc7 ((dinField w).extractLsb' 0 4)).setWidth 32))) ∧
    (lenField w ≠ 0 ∨ (dinField w).extractLsb' 4 28 ≠ 0 → step s = .next (s.answered w rest .invalidInput 0))) ∧
  (∀ w : ReqWord, w &&& 0x3FFFFFFFFF0 = 0x04000000000 ↔
    opField w = 0x1 ∧ lenField w = 0 ∧ (dinField w).extractLsb' 4 28 = 0) ∧
  enc7 0x0 = 0x00 ∧ enc7 0xF = 0x7F ∧ (∀ n m, enc7 n = enc7 m → n = m) ∧
  (∀ (s : State) (rest : List ReqWord), s.pending = 0x0400000000B :: rest →
    step s = .next (s.answered 0x0400000000B rest .ok 0x00000033))

/-- 40_block_coder.md R63: DEC's syndrome, Corrected bit, corrected codeword and DataUnit, and their places in
`dout` (R67), and the agreement of `dec7` with `decode`. -/
def Obligations.DecWritesTheDecodedFields : Prop :=
  (∀ cw : Codeword, ListLevel.decode (ListLevel.bitsOf 7 cw) =
    .ok { unit := ListLevel.bitsOf 4 (dec7 cw).n, syndrome := (dec7 cw).syn.toNat,
          corrected := (dec7 cw).cor = 1, codeword := ListLevel.bitsOf 7 (dec7 cw).cc }) ∧
  ∀ (cw : Codeword) (s : State),
    let s1 := cw.getLsbD 6 ^^ cw.getLsbD 4 ^^ cw.getLsbD 2 ^^ cw.getLsbD 0
    let s2 := cw.getLsbD 5 ^^ cw.getLsbD 4 ^^ cw.getLsbD 1 ^^ cw.getLsbD 0
    let s4 := cw.getLsbD 3 ^^ cw.getLsbD 2 ^^ cw.getLsbD 1 ^^ cw.getLsbD 0
    let syn : Syndrome := BitVec.ofBool s4 ++ BitVec.ofBool s2 ++ BitVec.ofBool s1
    let cc : Codeword := if syn ≠ 0 then cw ^^^ (1#7 <<< (7 - syn.toNat)) else cw
    let cor : BitVec 1 := if syn ≠ 0 then 1 else 0
    let n : DataUnit := BitVec.ofBool (cc.getLsbD 4) ++ BitVec.ofBool (cc.getLsbD 2) ++ BitVec.ofBool (cc.getLsbD 1)
      ++ BitVec.ofBool (cc.getLsbD 0)
    exec (.dec cw) s = .next { s with rspErr := 0b00, rspDout := 0#17 ++ cc ++ cor ++ syn ++ n } ∧
      dec7 cw = { n := n, syn := syn, cor := cor, cc := cc }

/-- 40_block_coder.md R64, at the word level through ENC and DEC and at the list level. -/
def Obligations.DecodeOfEncodeIsClean : Prop :=
  ∀ n : DataUnit,
    (∀ s : State, exec (.dec (enc7 n)) s =
      .next { s with rspErr := 0b00, rspDout := 0#17 ++ enc7 n ++ 0#1 ++ 0#3 ++ n }) ∧
    dec7 (enc7 n) = { n := n, syn := 0, cor := 0, cc := enc7 n } ∧
    ∃ c, ListLevel.encode (ListLevel.bitsOf 4 n) = .ok c ∧ ListLevel.decode c =
      .ok { unit := ListLevel.bitsOf 4 n, syndrome := 0, corrected := false, codeword := c }

/-- 40_block_coder.md R65, at the word level through DEC (1-indexed position `q`) and at the list level
(0-indexed `p`). -/
def Obligations.SingleBitErrorsAreCorrected : Prop :=
  ∀ n : DataUnit,
    (∀ (q : Nat) (s : State), 1 ≤ q → q ≤ 7 →
      exec (.dec (enc7 n ^^^ (1#7 <<< (7 - q)))) s =
        .next { s with rspErr := 0b00, rspDout := 0#17 ++ enc7 n ++ 1#1 ++ BitVec.ofNat 3 q ++ n } ∧
      dec7 (enc7 n ^^^ (1#7 <<< (7 - q))) = { n := n, syn := BitVec.ofNat 3 q, cor := 1, cc := enc7 n }) ∧
    ∃ c, ListLevel.encode (ListLevel.bitsOf 4 n) = .ok c ∧ ∀ p < 7,
      ListLevel.decode (c.set p (1 - c.getD p 0)) =
        .ok { unit := ListLevel.bitsOf 4 n, syndrome := p + 1, corrected := true, codeword := c }

/-- 40_block_coder.md R66: what DEC answers for every error pattern, errors of two and more bits among them. -/
def Obligations.MultiBitErrorsAreMiscorrected : Prop :=
  ∀ (n : DataUnit) (e : Codeword) (s : State),
    let d := dec7 (enc7 n ^^^ e)
    let ps := errorPositions e
    exec (.dec (enc7 n ^^^ e)) s = .next { s with rspErr := 0b00, rspDout := 0#17 ++ d.cc ++ d.cor ++ d.syn ++ d.n } ∧
    d.syn.toNat = ps.foldl (fun a p => a ^^^ p) 0 ∧
    (ps.length = 2 → d.syn ≠ 0 ∧ d.cor = 1 ∧ d.n ≠ n) ∧
    (ps.length = 3 →
      (d.syn = 0 ↔ ps ∈ [[1, 2, 3], [1, 4, 5], [1, 6, 7], [2, 4, 6], [2, 5, 7], [3, 4, 7], [3, 5, 6]]) ∧
      (d.syn = 0 → d.cor = 0 ∧ d.n ≠ n)) ∧
    (2 ≤ ps.length → d.n ≠ n ∧ d.cc = enc7 d.n) ∧
    (e ≠ 0 → (d.n = n ↔ ps.length = 1))

/-- 40_block_coder.md R67, DEC at the port. -/
def Obligations.DecRequest : Prop :=
  (∀ (s : State) (w : ReqWord) (rest : List ReqWord), s.pending = w :: rest → opField w = 0x2 →
    (lenField w = 0 → (dinField w).extractLsb' 7 25 = 0 →
      ∀ d, d = dec7 ((dinField w).extractLsb' 0 7) →
        step s = .next (s.answered w rest .ok (0#17 ++ d.cc ++ d.cor ++ d.syn ++ d.n))) ∧
    (lenField w ≠ 0 ∨ (dinField w).extractLsb' 7 25 ≠ 0 → step s = .next (s.answered w rest .invalidInput 0))) ∧
  (∀ w : ReqWord, w &&& 0x3FFFFFFFF80 = 0x08000000000 ↔
    opField w = 0x2 ∧ lenField w = 0 ∧ (dinField w).extractLsb' 7 25 = 0) ∧
  (∀ n, (dec7 (enc7 n)).syn = 0 ∧ (dec7 (enc7 n)).cor = 0) ∧
  (∀ n, ∀ q ∈ [1, 2, 4], (dec7 (enc7 n ^^^ posMask q)).cor = 1 ∧ (dec7 (enc7 n ^^^ posMask q)).n = n) ∧
  enc7 0xF = 0x7F ∧ enc7 0xB ^^^ posMask 7 = 0x32 ∧ dec7 0x01 = { n := 0x0, syn := 7, cor := 1, cc := 0x00 } ∧
  (∀ (s : State) (rest : List ReqWord), s.pending = 0x08000000032 :: rest →
    step s = .next (s.answered 0x08000000032 rest .ok 0x000033FB))

/-! ### The splitter, the packer and the conditioning -/

/-- 41_split_pack.md R73 and R75: what PACK and UNPACK answer for each count up to 32. The decoder gives no instruction
with a count above 32; what such an instruction answers is the model's choice of log entry 10. -/
def Obligations.PackAndUnpackShift : Prop :=
  ∀ (n : Len) (din : Data) (s : State),
    (n.toNat ≤ 32 →
      exec (.pack n din) s = .next { s with rspErr := 0b00, rspDout := din <<< (32 - n.toNat) } ∧
      exec (.unpack n din) s = .next { s with rspErr := 0b00, rspDout := din >>> (32 - n.toNat) }) ∧
    (32 < n.toNat →
      exec (.pack n din) s = .next { s with rspErr := 0b01, rspDout := 0 } ∧
      exec (.unpack n din) s = .next { s with rspErr := 0b01, rspDout := 0 })

/-- 41_split_pack.md R73, PACK at the port. -/
def Obligations.PackRequest : Prop :=
  (∀ (s : State) (w : ReqWord) (rest : List ReqWord), s.pending = w :: rest → opField w = 0x3 →
    ∀ n, n = (lenField w).toNat →
      (n ≤ 32 → ∀ S : Data, S = (if n = 0 then 0 else dinField w &&& BitVec.ofNat 32 (2 ^ n - 1)) →
        step s = .next (s.answered w rest .ok (if n = 0 then 0 else S <<< (32 - n)))) ∧
      (33 ≤ n → step s = .next (s.answered w rest .invalidInput 0))) ∧
  (∀ w : ReqWord, w &&& 0x3C000000000 = 0x0C000000000 ↔ opField w = 0x3) ∧
  (∀ (din : Data) (s : State),
    exec (.pack 0 din) s = .next { s with rspErr := 0b00, rspDout := 0 } ∧
    exec (.pack 32 din) s = .next { s with rspErr := 0b00, rspDout := din } ∧
    exec (.pack 8 din) s = .next { s with rspErr := 0b00, rspDout := din.extractLsb' 0 8 ++ 0#24 } ∧
    (din.getLsbD 0 = true → exec (.pack 1 din) s = .next { s with rspErr := 0b00, rspDout := 0x80000000 })) ∧
  (∀ (n : Len) (din din' : Data) (s : State), n.toNat ≤ 32 →
    (∀ i < n.toNat, din.getLsbD i = din'.getLsbD i) → exec (.pack n din) s = exec (.pack n din') s) ∧
  (∀ (s : State) (rest : List ReqWord), s.pending = 0x0C9000001FF :: rest →
    step s = .next (s.answered 0x0C9000001FF rest .ok 0xFF800000))

/-- 41_split_pack.md R72, 10_state.md R26, 20_memory.md R34: PACK puts element `j` of the sequence at bit `31 - j`, and
every bit below the sequence is 0. -/
def Obligations.PackPutsTheFirstBitFirst : Prop :=
  ∀ (n : Len) (din : Data) (s : State), n.toNat ≤ 32 →
    ∃ d : Data, exec (.pack n din) s = .next { s with rspErr := 0b00, rspDout := d } ∧
      (∀ j < n.toNat, d.getLsbD (31 - j) = din.getLsbD (n.toNat - 1 - j)) ∧
      (∀ i < 32 - n.toNat, d.getLsbD i = false)

/-- 41_split_pack.md R75, UNPACK at the port. -/
def Obligations.UnpackRequest : Prop :=
  (∀ (s : State) (w : ReqWord) (rest : List ReqWord), s.pending = w :: rest → opField w = 0x4 →
    ∀ n, n = (lenField w).toNat →
      (n ≤ 32 → step s = .next (s.answered w rest .ok (if n = 0 then 0 else dinField w >>> (32 - n)))) ∧
      (33 ≤ n → step s = .next (s.answered w rest .invalidInput 0))) ∧
  (∀ w : ReqWord, w &&& 0x3C000000000 = 0x10000000000 ↔ opField w = 0x4) ∧
  (∀ (din : Data) (s : State),
    exec (.unpack 0 din) s = .next { s with rspErr := 0b00, rspDout := 0 } ∧
    exec (.unpack 32 din) s = .next { s with rspErr := 0b00, rspDout := din }) ∧
  (∀ (n : Len) (din din' : Data) (s : State), n.toNat ≤ 32 →
    (∀ i, 32 - n.toNat ≤ i → i < 32 → din.getLsbD i = din'.getLsbD i) →
    exec (.unpack n din) s = exec (.unpack n din') s) ∧
  (∀ n ≤ 32, ∀ S : Data, S.toNat < 2 ^ n → unpack n (pack n S) = S) ∧
  (∀ n ≤ 32, ∀ (w : Data), ∀ i < 32, (pack n (unpack n w)).getLsbD i = (decide (32 - n ≤ i) && w.getLsbD i)) ∧
  (∀ (s : State) (rest : List ReqWord), s.pending = 0x11CD2AA1CC9 :: rest →
    step s = .next (s.answered 0x11CD2AA1CC9 rest .ok 0x0D2AA1CC))

/-- 20_memory.md R35: UNPACK and DEFRAME ignore the bits of their operand past the known bit count. -/
def Obligations.PaddingIsIgnored : Prop :=
  (∀ (n : Len) (w w' : Data) (s : State), n.toNat ≤ 32 →
    (∀ j < n.toNat, w.getLsbD (31 - j) = w'.getLsbD (31 - j)) →
    ∃ t, exec (.unpack n w) s = .next t ∧ exec (.unpack n w') s = .next t ∧ t.rspErr = 0b00) ∧
  (∀ (S : BitStream) (p p' : BitVec 4) (s : State),
    ∃ t, exec (.deframe (S ++ p)) s = .next t ∧ exec (.deframe (S ++ p')) s = .next t ∧ t.rspErr = 0b00)

/-- 41_split_pack.md R80, at the list level and through PACK 28. -/
def Obligations.FrameStreamPacksToFourBytes : Prop :=
  (∀ l : List Nat, l.length = 28 → ListLevel.allBits l = true →
    (ListLevel.packBits l).length = 4 ∧ (ListLevel.packBits l).getD 3 0 % 16 = 0) ∧
  (∀ (S : BitStream) (s : State),
    exec (.pack 28 (S.setWidth 32)) s = .next { s with rspErr := 0b00, rspDout := S.setWidth 32 <<< 4 } ∧
    pack 28 (S.setWidth 32) = S.setWidth 32 <<< 4 ∧ (pack 28 (S.setWidth 32)).extractLsb' 0 4 = 0)

/-- 41_split_pack.md R69, R70, R76, R77: splitting and joining are inverse, for units and for codewords, and each unit
and codeword has its place. -/
def Obligations.SplitAndJoinAreInverse : Prop :=
  (∀ v : Sample, join16 (unitOf 0 v) (unitOf 1 v) (unitOf 2 v) (unitOf 3 v) = v) ∧
  (∀ n0 n1 n2 n3 : DataUnit, unitOf 0 (join16 n0 n1 n2 n3) = n0 ∧ unitOf 1 (join16 n0 n1 n2 n3) = n1 ∧
    unitOf 2 (join16 n0 n1 n2 n3) = n2 ∧ unitOf 3 (join16 n0 n1 n2 n3) = n3) ∧
  (∀ S : BitStream, concat28 (codewordOf 0 S) (codewordOf 1 S) (codewordOf 2 S) (codewordOf 3 S) = S) ∧
  (∀ c0 c1 c2 c3 : Codeword, codewordOf 0 (concat28 c0 c1 c2 c3) = c0 ∧ codewordOf 1 (concat28 c0 c1 c2 c3) = c1 ∧
    codewordOf 2 (concat28 c0 c1 c2 c3) = c2 ∧ codewordOf 3 (concat28 c0 c1 c2 c3) = c3)

/-- 41_split_pack.md R78: ABS16 answers the magnitude, with its three corner cases and the loss of the sign. -/
def Obligations.Abs16IsTheMagnitude : Prop :=
  (∀ (x : Sample) (s : State), ∃ m : Sample,
    exec (.abs16 x) s = .next { s with rspErr := 0b00, rspDout := 0#16 ++ m } ∧
    m.toNat = x.toInt.natAbs ∧ m.toNat = x.toInt.natAbs % 2 ^ 16 ∧
    m = (if x.getLsbD 15 = false then x else BitVec.ofNat 16 (2 ^ 16 - x.toNat)) ∧
    (m.getLsbD 15 = true ↔ x = 0x8000) ∧
    exec (.abs16 (BitVec.ofNat 16 (2 ^ 16 - x.toNat))) s = exec (.abs16 x) s) ∧
  abs16 0x8000 = 0x8000 ∧ abs16 0xFFFF = 0x0001 ∧ abs16 0x0000 = 0x0000

/-- 41_split_pack.md R79, ABS16 at the port. -/
def Obligations.Abs16Request : Prop :=
  (∀ (s : State) (w : ReqWord) (rest : List ReqWord), s.pending = w :: rest → opField w = 0x8 →
    (lenField w = 0 → (dinField w).extractLsb' 16 16 = 0 →
      step s = .next (s.answered w rest .ok (0#16 ++ abs16 ((dinField w).extractLsb' 0 16)))) ∧
    (lenField w ≠ 0 ∨ (dinField w).extractLsb' 16 16 ≠ 0 → step s = .next (s.answered w rest .invalidInput 0))) ∧
  (∀ w : ReqWord, w &&& 0x3FFFFFF0000 = 0x20000000000 ↔
    opField w = 0x8 ∧ lenField w = 0 ∧ (dinField w).extractLsb' 16 16 = 0) ∧
  (∀ (x : Sample) (s : State) (rest : List ReqWord), x.getLsbD 15 = true →
    s.pending = reqWord 0x8 0 (x.signExtend 32) :: rest →
    step s = .next (s.answered (reqWord 0x8 0 (x.signExtend 32)) rest .invalidInput 0)) ∧
  abs16 0x8000 = 0x8000 ∧ abs16 0xFFFF = 0x0001 ∧ abs16 0x0000 = 0x0000 ∧
  (∀ (s : State) (rest : List ReqWord), s.pending = 0x2000000FFFB :: rest →
    step s = .next (s.answered 0x2000000FFFB rest .ok 0x00000005))

/-! ### Frames -/

/-- 42_frame.md R81: the frame of a value, and the contents of its first and last byte. FRAMES gives the frame of
the magnitude (R83). -/
def Obligations.FrameConcatenatesTheCodewords : Prop :=
  ∀ (v : Sample) (s : State),
    let c0 := enc7 (v.extractLsb' 12 4)
    let c1 := enc7 (v.extractLsb' 8 4)
    let c2 := enc7 (v.extractLsb' 4 4)
    let c3 := enc7 (v.extractLsb' 0 4)
    let d : Data := c0 ++ c1 ++ c2 ++ c3 ++ 0#4
    exec (.frame v) s = .next { s with rspErr := 0b00, rspDout := d } ∧
    (∀ x, abs16 x = v → exec (.frames x) s = .next { s with rspErr := 0b00, rspDout := d }) ∧
    encodeSample16 v = d ∧ ListLevel.encodeSample16 v.toNat = .ok (ListLevel.bytesOf d) ∧
    d = ((c0 ++ c1 ++ c2 ++ c3).setWidth 32 : Data) <<< 4 ∧
    byteOf 0 d = c0 ++ BitVec.ofBool (pos c1 1) ∧
    byteOf 3 d = BitVec.ofBool (pos c3 4) ++ BitVec.ofBool (pos c3 5) ++ BitVec.ofBool (pos c3 6)
      ++ BitVec.ofBool (pos c3 7) ++ 0#4

/-- 42_frame.md R82, FRAME at the port. -/
def Obligations.FrameRequest : Prop :=
  (∀ (s : State) (w : ReqWord) (rest : List ReqWord), s.pending = w :: rest → opField w = 0x5 →
    (lenField w = 0 → (dinField w).extractLsb' 16 16 = 0 →
      step s = .next (s.answered w rest .ok (encodeSample16 ((dinField w).extractLsb' 0 16)))) ∧
    (lenField w ≠ 0 ∨ (dinField w).extractLsb' 16 16 ≠ 0 → step s = .next (s.answered w rest .invalidInput 0))) ∧
  (∀ w : ReqWord, w &&& 0x3FFFFFF0000 = 0x14000000000 ↔
    opField w = 0x5 ∧ lenField w = 0 ∧ (dinField w).extractLsb' 16 16 = 0) ∧
  encodeSample16 0x0000 = 0x00000000 ∧ encodeSample16 0xFFFF = 0xFFFFFFF0 ∧ encodeSample16 0x8000 = 0xE0000000 ∧
  (∀ v v' : Sample, encodeSample16 v = encodeSample16 v' → v = v') ∧
  (∀ (s : State) (rest : List ReqWord), s.pending = 0x14000001234 :: rest →
    step s = .next (s.answered 0x14000001234 rest .ok 0xD2AA1CC0)) ∧
  (∀ v : Sample, ListLevel.conditioned v.toNat = v.toNat) ∧
  [enc7 0x1, enc7 0x2, enc7 0x3, enc7 0x4] = [0x69, 0x2A, 0x43, 0x4C] ∧
  concat28 0x69 0x2A 0x43 0x4C = 0x0D2AA1CC

/-- 42_frame.md R83, FRAMES at the port. -/
def Obligations.FramesRequest : Prop :=
  (∀ (s : State) (w : ReqWord) (rest : List ReqWord), s.pending = w :: rest → opField w = 0x7 →
    (lenField w = 0 → (dinField w).extractLsb' 16 16 = 0 →
      step s = .next (s.answered w rest .ok (encodeSample16 (abs16 ((dinField w).extractLsb' 0 16))))) ∧
    (lenField w ≠ 0 ∨ (dinField w).extractLsb' 16 16 ≠ 0 → step s = .next (s.answered w rest .invalidInput 0))) ∧
  (∀ w : ReqWord, w &&& 0x3FFFFFF0000 = 0x1C000000000 ↔
    opField w = 0x7 ∧ lenField w = 0 ∧ (dinField w).extractLsb' 16 16 = 0) ∧
  (∀ s : State, exec (.frames 0x8000) s = .next { s with rspErr := 0b00, rspDout := 0xE0000000 } ∧
    exec (.frames 0xFFFF) s = .next { s with rspErr := 0b00, rspDout := 0x00000690 }) ∧
  (∀ (x : Sample) (s : State), exec (.frames x) s = exec (.frames (BitVec.ofNat 16 (2 ^ 16 - x.toNat))) s) ∧
  (∀ (s : State) (rest : List ReqWord), s.pending = 0x1C00000FFFB :: rest →
    step s = .next (s.answered 0x1C00000FFFB rest .ok 0x00000250)) ∧
  (∀ s : State, exec (.frame 5) s = .next { s with rspErr := 0b00, rspDout := 0x00000250 })

/-- 42_frame.md R84: a sample and its negation have one frame; decoding it gives the magnitude, which as a number is
never the negative sample (log entry 15). -/
def Obligations.FramesLosesTheSign : Prop :=
  ∀ (x : Sample) (s s' : State), ∃ d : Data,
    exec (.frames x) s = .next { s with rspErr := 0b00, rspDout := d } ∧
    exec (.frames (BitVec.ofNat 16 (2 ^ 16 - x.toNat))) s = .next { s with rspErr := 0b00, rspDout := d } ∧
    exec (.deframe d) s' = .next { s' with rspErr := 0b00, rspDout := 0#16 ++ abs16 x } ∧
    (x.toInt < 0 → ((abs16 x).toNat : Int) ≠ x.toInt) ∧
    (0 ≤ x.toInt → exec (.frame x) s = exec (.frames x) s)

/-- 42_frame.md R85, R86, 30_encoding.md R52: each lane of DEFRAME's operand decoded by itself, and the place of
each field in `dout`. -/
def Obligations.DeframeDecodesEachLane : Prop :=
  ∀ (w : Data) (s : State),
    let l0 := dec7 (w.extractLsb' 25 7)
    let l1 := dec7 (w.extractLsb' 18 7)
    let l2 := dec7 (w.extractLsb' 11 7)
    let l3 := dec7 (w.extractLsb' 4 7)
    ∃ d : Data, exec (.deframe w) s = .next { s with rspErr := 0b00, rspDout := d } ∧
      d = l0.cor ++ l1.cor ++ l2.cor ++ l3.cor ++ l0.syn ++ l1.syn ++ l2.syn ++ l3.syn
        ++ l0.n ++ l1.n ++ l2.n ++ l3.n ∧
      (∀ k : Fin 4, d.extractLsb' (31 - k.val) 1 = ([l0, l1, l2, l3].getD k.val l0).cor ∧
        d.extractLsb' (25 - 3 * k.val) 3 = ([l0, l1, l2, l3].getD k.val l0).syn) ∧
      d.extractLsb' 0 16 = l0.n ++ l1.n ++ l2.n ++ l3.n

/-- 42_frame.md R86, DEFRAME at the port. -/
def Obligations.DeframeRequest : Prop :=
  (∀ (s : State) (w : ReqWord) (rest : List ReqWord), s.pending = w :: rest → opField w = 0x6 →
    (lenField w = 0 → ∀ l : Fin 4 → Decoded, (∀ k, l k = dec7 (codewordOf k ((dinField w).extractLsb' 4 28))) →
      step s = .next (s.answered w rest .ok ((l 0).cor ++ (l 1).cor ++ (l 2).cor ++ (l 3).cor
        ++ (l 0).syn ++ (l 1).syn ++ (l 2).syn ++ (l 3).syn ++ join16 (l 0).n (l 1).n (l 2).n (l 3).n))) ∧
    (lenField w ≠ 0 → step s = .next (s.answered w rest .invalidInput 0))) ∧
  (∀ w : ReqWord, w &&& 0x3FF00000000 = 0x18000000000 ↔ opField w = 0x6 ∧ lenField w = 0) ∧
  (∀ (S : BitStream) (p : BitVec 4) (s : State), exec (.deframe (S ++ p)) s = exec (.deframe (S ++ 0#4)) s) ∧
  (∀ s : State, exec (.deframe 0xD2AA1C00) s = .next { s with rspErr := 0b00, rspDout := 0x10011230 } ∧
    encodeSample16 0x1234 ^^^ 0xC0 = 0xD2AA1C00 ∧
    exec (.deframe 0xE0000000) s = .next { s with rspErr := 0b00, rspDout := 0x00008000 } ∧
    encodeSample16 0x0000 ^^^ 0xE0000000 = 0xE0000000 ∧ encodeSample16 0x1234 ^^^ 1#32 <<< 22 = 0xD2EA1CC0) ∧
  (∀ (s : State) (rest : List ReqWord), s.pending = 0x180D2EA1CC0 :: rest →
    step s = .next (s.answered 0x180D2EA1CC0 rest .ok 0x40C01234))

/-- 20_memory.md R30, R31, R32: stream element `7k + (p-1)` of a frame is position `p` of unit `k`'s codeword, element
`8i + t` is bit `7 - t` of byte `i`, byte 0 stands at the top of `dout`, and the padding is 0. -/
def Obligations.FrameStreamAndByteOrder : Prop :=
  ∀ (v : Sample) (s : State), ∃ d : Data,
    exec (.frame v) s = .next { s with rspErr := 0b00, rspDout := d } ∧
    (∀ (k : Fin 4) (p : Nat), 1 ≤ p → p ≤ 7 →
      d.getLsbD (31 - (7 * k.val + (p - 1))) = pos (enc7 (v.extractLsb' (12 - 4 * k.val) 4)) p) ∧
    (∀ (i : Fin 4) (t : Nat), t < 8 → 8 * i.val + t < 28 →
      (byteOf i d).getLsbD (7 - t) = (streamOf v).getLsbD (27 - (8 * i.val + t))) ∧
    d = byteOf 0 d ++ byteOf 1 d ++ byteOf 2 d ++ byteOf 3 d ∧
    d.extractLsb' 0 4 = 0

/-- 42_frame.md R88, through FRAME and DEFRAME and at the list level: the value comes back, every syndrome and
Corrected bit 0. -/
def Obligations.DeframeInvertsFrame : Prop :=
  (∀ v : Sample, ∃ bytes, ListLevel.encodeSample16 v.toNat = .ok bytes ∧ ListLevel.decodeSample16 bytes =
    .ok { value := v.toNat, syndromes := [0, 0, 0, 0], corrected := [false, false, false, false] }) ∧
  ∀ (v : Sample) (s s' : State), ∃ d : Data,
    exec (.frame v) s = .next { s with rspErr := 0b00, rspDout := d } ∧
    exec (.deframe d) s' = .next { s' with rspErr := 0b00, rspDout := 0#4 ++ 0#12 ++ v } ∧
    (∀ k : Fin 4, (laneOf k d).n = unitOf k v ∧ (laneOf k d).syn = 0 ∧ (laneOf k d).cor = 0)

/-- 42_frame.md R89: a frame changed by any error pattern `e` in its lanes and any padding. A lane with one flip shows
it and is corrected, a lane without is clean, a lane with more is wrong; without such a lane the value comes back. -/
def Obligations.FrameErrorTolerance : Prop :=
  ∀ (v : Sample) (e : BitStream) (pad : BitVec 4) (s : State), ∃ d : Data,
    exec (.deframe (encodeSample16 v ^^^ (e ++ pad))) s = .next { s with rspErr := 0b00, rspDout := d } ∧
    (∀ k : Fin 4,
      (codewordOf k e = 0 → unitOf k (d.extractLsb' 0 16) = unitOf k v ∧ d.extractLsb' (31 - k.val) 1 = 0 ∧
        d.extractLsb' (25 - 3 * k.val) 3 = 0) ∧
      (∀ q, 1 ≤ q → q ≤ 7 → codewordOf k e = posMask q → unitOf k (d.extractLsb' 0 16) = unitOf k v ∧
        d.extractLsb' (31 - k.val) 1 = 1 ∧ d.extractLsb' (25 - 3 * k.val) 3 = BitVec.ofNat 3 q) ∧
      (2 ≤ (errorPositions (codewordOf k e)).length → unitOf k (d.extractLsb' 0 16) ≠ unitOf k v)) ∧
    ((∀ k : Fin 4, (errorPositions (codewordOf k e)).length ≤ 1) → d.extractLsb' 0 16 = v)

/-- 42_frame.md R87: lane `k` of a frame depends only on the rule's `n_k`, which is unit `k` of the value for FRAME and
unit `k` of the sample's MAGNITUDE for FRAMES (two samples that share a raw nibble may differ there); lane `k` of
DEFRAME's result depends only on lane `k` of the frame. -/
def Obligations.LanesAreIndependent : Prop :=
  (∀ (k : Fin 4) (v v' : Sample) (s : State), unitOf k v = unitOf k v' → ∃ d d' : Data,
    exec (.frame v) s = .next { s with rspErr := 0b00, rspDout := d } ∧
    exec (.frame v') s = .next { s with rspErr := 0b00, rspDout := d' } ∧
    d.extractLsb' (25 - 7 * k.val) 7 = d'.extractLsb' (25 - 7 * k.val) 7) ∧
  (∀ (k : Fin 4) (x x' : Sample) (s : State), unitOf k (abs16 x) = unitOf k (abs16 x') → ∃ d d' : Data,
    exec (.frames x) s = .next { s with rspErr := 0b00, rspDout := d } ∧
    exec (.frames x') s = .next { s with rspErr := 0b00, rspDout := d' } ∧
    d.extractLsb' (25 - 7 * k.val) 7 = d'.extractLsb' (25 - 7 * k.val) 7) ∧
  (∀ (k : Fin 4) (w w' : Data) (s : State),
    w.extractLsb' (25 - 7 * k.val) 7 = w'.extractLsb' (25 - 7 * k.val) 7 → ∃ d d' : Data,
    exec (.deframe w) s = .next { s with rspErr := 0b00, rspDout := d } ∧
    exec (.deframe w') s = .next { s with rspErr := 0b00, rspDout := d' } ∧
    d.extractLsb' (12 - 4 * k.val) 4 = d'.extractLsb' (12 - 4 * k.val) 4 ∧
    d.extractLsb' (25 - 3 * k.val) 3 = d'.extractLsb' (25 - 3 * k.val) 3 ∧
    d.extractLsb' (31 - k.val) 1 = d'.extractLsb' (31 - k.val) 1)

/-! ### The list level, and its agreement with the words (00_scope.md R12) -/

/-- 40_block_coder.md R55, and `enc7` is `encode` on words (R56). -/
def Obligations.ListEncode : Prop :=
  (∀ d3 d2 d1 d0 : Nat, d3 < 2 → d2 < 2 → d1 < 2 → d0 < 2 →
    ListLevel.encode [d3, d2, d1, d0] =
      .ok [d3 ^^^ d2 ^^^ d0, d3 ^^^ d1 ^^^ d0, d3, d2 ^^^ d1 ^^^ d0, d2, d1, d0]) ∧
  (∀ l : List Nat, (l.length ≠ 4 ∨ ∃ b ∈ l, 2 ≤ b) → ListLevel.encode l = .error .invalidInput) ∧
  (∀ n : DataUnit, ListLevel.encode (ListLevel.bitsOf 4 n) = .ok (ListLevel.bitsOf 7 (enc7 n)))

/-- 40_block_coder.md R59, R60, R61, R62, and `dec7` is `decode` on words (R63). -/
def Obligations.ListDecode : Prop :=
  (∀ l : List Nat, (l.length ≠ 7 ∨ ∃ b ∈ l, 2 ≤ b) → ListLevel.decode l = .error .invalidInput) ∧
  (∀ cw : Codeword, ListLevel.decode (ListLevel.bitsOf 7 cw) =
    .ok { unit := ListLevel.bitsOf 4 (dec7 cw).n, syndrome := (dec7 cw).syn.toNat,
          corrected := (dec7 cw).cor = 1, codeword := ListLevel.bitsOf 7 (dec7 cw).cc }) ∧
  (∀ l : List Nat, l.length = 7 → (∀ b ∈ l, b < 2) → ∃ cw : Codeword, l = ListLevel.bitsOf 7 cw)

/-- 41_split_pack.md R71: the number of bytes and each byte's sum, for a list of any length; the empty list gives no
byte; and `packBits` of the `n` low bits is the first `ceil(n/8)` bytes of PACK's result, the rest being 0 (R72). -/
def Obligations.ListPack : Prop :=
  ListLevel.packBits [] = [] ∧
  (∀ l : List Nat, (ListLevel.packBits l).length = (l.length + 7) / 8 ∧
    ∀ i < (l.length + 7) / 8, (ListLevel.packBits l).getD i 0 =
      ((List.range 8).map fun t => (if 8 * i + t < l.length then l.getD (8 * i + t) 0 else 0) * 2 ^ (7 - t)).sum) ∧
  ∀ n ≤ 32, ∀ (S : BitVec n),
    ListLevel.packBits (ListLevel.bitsOf n S) = (ListLevel.bytesOf (pack n (S.setWidth 32))).take ((n + 7) / 8) ∧
    ∀ b ∈ (ListLevel.bytesOf (pack n (S.setWidth 32))).drop ((n + 7) / 8), b = 0

/-- 41_split_pack.md R74, R75: `unpackBits` gives the bits by their formula, fails on too few bytes, and agrees with
`unpack` on words. -/
def Obligations.ListUnpack : Prop :=
  (∀ (n : Nat) (bytes : List Nat), (n + 7) / 8 ≤ bytes.length →
    ∃ l, ListLevel.unpackBits n bytes = .ok l ∧ l.length = n ∧
      ∀ j < n, l.getD j 0 = (bytes.getD (j / 8) 0 >>> (7 - j % 8)) &&& 1) ∧
  (∀ (n : Nat) (bytes : List Nat), bytes.length < (n + 7) / 8 →
    ListLevel.unpackBits n bytes = .error .invalidInput) ∧
  (∀ n ≤ 32, ∀ (w : Data) (m : Nat), (n + 7) / 8 ≤ m →
    ListLevel.unpackBits n ((ListLevel.bytesOf w).take m) = .ok (ListLevel.bitsOf n ((unpack n w).setWidth n)))

/-- 41_split_pack.md R68, R70, R76, R77: splitting and joining lists is splitting and joining words. -/
def Obligations.ListSplitAndJoin : Prop :=
  (∀ v : Sample, ListLevel.split16 v.toNat =
    [ListLevel.bitsOf 4 (unitOf 0 v), ListLevel.bitsOf 4 (unitOf 1 v), ListLevel.bitsOf 4 (unitOf 2 v),
     ListLevel.bitsOf 4 (unitOf 3 v)]) ∧
  (∀ v : Sample, ListLevel.join16 (ListLevel.split16 v.toNat) = v.toNat) ∧
  (∀ c0 c1 c2 c3 : Codeword,
    ListLevel.concat28 [ListLevel.bitsOf 7 c0, ListLevel.bitsOf 7 c1, ListLevel.bitsOf 7 c2, ListLevel.bitsOf 7 c3] =
      ListLevel.bitsOf 28 (concat28 c0 c1 c2 c3)) ∧
  (∀ S : BitStream, ListLevel.split28 (ListLevel.bitsOf 28 S) =
    [ListLevel.bitsOf 7 (codewordOf 0 S), ListLevel.bitsOf 7 (codewordOf 1 S), ListLevel.bitsOf 7 (codewordOf 2 S),
     ListLevel.bitsOf 7 (codewordOf 3 S)])

/-- 42_frame.md R81, 00_scope.md R12: FRAME's four bytes are the list-level `encodeSample16`, and FRAMES' are those of
`abs(sample) & 0xFFFF` (41_split_pack.md R78). -/
def Obligations.FrameRefinesListEncodeSample16 : Prop :=
  (∀ (v : Sample) (s : State), ∃ d : Data,
    exec (.frame v) s = .next { s with rspErr := 0b00, rspDout := d } ∧
    ListLevel.encodeSample16 v.toNat = .ok (ListLevel.bytesOf d)) ∧
  (∀ (x : Sample) (s : State), ∃ d : Data,
    exec (.frames x) s = .next { s with rspErr := 0b00, rspDout := d } ∧
    ListLevel.encodeSample16 (ListLevel.conditioned x.toInt) = .ok (ListLevel.bytesOf d))

/-- 42_frame.md R85, 00_scope.md R12: DEFRAME's fields are the list-level `decodeSample16` of its four bytes. -/
def Obligations.DeframeRefinesListDecodeSample16 : Prop :=
  ∀ (w : Data) (s : State), ∃ d : Data,
    exec (.deframe w) s = .next { s with rspErr := 0b00, rspDout := d } ∧
    ListLevel.decodeSample16 (ListLevel.bytesOf w) = .ok
      { value := (d.extractLsb' 0 16).toNat
        syndromes := [(d.extractLsb' 25 3).toNat, (d.extractLsb' 22 3).toNat, (d.extractLsb' 19 3).toNat,
          (d.extractLsb' 16 3).toNat]
        corrected := [d.getLsbD 31, d.getLsbD 30, d.getLsbD 29, d.getLsbD 28] }

/-! ### The assembler -/

/-- 30_encoding.md R54 with R44 and R47: the request number of each form that takes numbers, and the ranges. That a
PACK line with bits not below `2^n`, and a PACK or UNPACK line with a count above 32, is an error is R54's range followed
against the assembler column of 95_test_vectors.md L2.5, which writes such lines: the model's choice of log entry 14. -/
def Obligations.AssemblerWritesRequestNumbers : Prop :=
  (∀ n : Nat, Asm.assemble ⟨"ENC".toList, [.num n]⟩ =
    if n < 16 then .ok [BitVec.ofNat 42 (1 * 2 ^ 38 + n)] else .error .outOfRange) ∧
  (∀ n : Nat, Asm.assemble ⟨"DEC".toList, [.num n]⟩ =
    if n < 128 then .ok [BitVec.ofNat 42 (2 * 2 ^ 38 + n)] else .error .outOfRange) ∧
  (∀ n b : Nat, Asm.assemble ⟨"PACK".toList, [.num n, .num b]⟩ =
    if n ≤ 32 ∧ b < 2 ^ n then .ok [BitVec.ofNat 42 (3 * 2 ^ 38 + n * 2 ^ 32 + b)] else .error .outOfRange) ∧
  (∀ n b : Nat, Asm.assemble ⟨"UNPACK".toList, [.num n, .num b]⟩ =
    if n ≤ 32 ∧ b < 2 ^ 32 then .ok [BitVec.ofNat 42 (4 * 2 ^ 38 + n * 2 ^ 32 + b)] else .error .outOfRange) ∧
  (∀ n : Nat, Asm.assemble ⟨"FRAME".toList, [.num n]⟩ =
    if n < 65536 then .ok [BitVec.ofNat 42 (5 * 2 ^ 38 + n)] else .error .outOfRange) ∧
  (∀ n : Nat, Asm.assemble ⟨"DEFRAME".toList, [.num n]⟩ =
    if n < 2 ^ 32 then .ok [BitVec.ofNat 42 (6 * 2 ^ 38 + n)] else .error .outOfRange) ∧
  (∀ x : Int, Asm.assemble ⟨"FRAMES".toList, [.num x]⟩ =
    if -32768 ≤ x ∧ x ≤ 65535 then .ok [BitVec.ofNat 42 (7 * 2 ^ 38 + (x % 65536).toNat)] else .error .outOfRange) ∧
  (∀ x : Int, Asm.assemble ⟨"ABS16".toList, [.num x]⟩ =
    if -32768 ≤ x ∧ x ≤ 65535 then .ok [BitVec.ofNat 42 (8 * 2 ^ 38 + (x % 65536).toNat)] else .error .outOfRange) ∧
  (∀ n : Nat, Asm.assemble ⟨".req".toList, [.num n]⟩ =
    if n < 2 ^ 42 then .ok [BitVec.ofNat 42 n] else .error .outOfRange)

/-- 30_encoding.md R54: the bit-list forms, and the text of the rule's own examples. -/
def Obligations.AssemblerReadsBitListsAndText : Prop :=
  (∀ d3 d2 d1 d0 : Bool, Asm.assemble ⟨"ENC".toList, [.bits [d3, d2, d1, d0]]⟩ =
    .ok [encode (.enc (BitVec.ofBool d3 ++ BitVec.ofBool d2 ++ BitVec.ofBool d1 ++ BitVec.ofBool d0))]) ∧
  (∀ l : List Bool, l.length ≠ 4 → Asm.assemble ⟨"ENC".toList, [.bits l]⟩ = .error .bitListLength) ∧
  (∀ l : List Bool, l.length ≠ 7 → Asm.assemble ⟨"DEC".toList, [.bits l]⟩ = .error .bitListLength) ∧
  (∀ l : List Bool, l.length ≤ 32 → Asm.assemble ⟨"PACK".toList, [.bits l]⟩ =
    .ok [BitVec.ofNat 42 (3 * 2 ^ 38 + l.length * 2 ^ 32 + Asm.bitListValue l)]) ∧
  Asm.assembleText "ENC [1,0,1,1] ; the nibble 0xB".toList = Asm.assembleText "ENC 0xB".toList ∧
  Asm.assembleText "DEC [0,1,1,0,0,1,1]".toList = .ok [0x08000000033] ∧
  Asm.assembleText "SELFTEST".toList = .ok [0x0400000000B, 0x08000000033, 0x08000000032] ∧
  Asm.assembleText "FRAMES -5".toList = .ok [0x1C00000FFFB] ∧
  Asm.assembleText ".req 0x28000000000".toList = .ok [0x28000000000] ∧
  Asm.assembleText "ENC".toList = .error .operandCount ∧
  Asm.responseText 0b00 0x000033FB = some "-> OK 0x000033FB".toList ∧
  Asm.responseText 0b01 0 = some "-> INVALID_INPUT 0x00000000".toList ∧
  Asm.responseText 0b10 0 = some "-> RESERVED_OP 0x00000000".toList
end

