-- ==== Sys2Proof/Laws/Datapath.lean ====
section
/-! SUPPORT. The bits of the datapath functions, and the lanes of a frame. -/

namespace Sys2Proof.Machine

/-! ### The packer, bit by bit -/

theorem getLsbD_seqOperand (n : Nat) (hn : n ≤ 32) (din : Data) (i : Nat) :
    (seqOperand n din).getLsbD i = (decide (i < n) && din.getLsbD i) := by
  unfold seqOperand
  split
  · next h => subst h; simp
  · rw [BitVec.getLsbD_and, BitVec.getLsbD_ofNat, Nat.testBit_two_pow_sub_one]
    by_cases h1 : i < n
    · simp [h1, show i < 32 by omega]
    · simp [h1]

theorem getLsbD_pack (n : Nat) (hn : n ≤ 32) (S : Data) (i : Nat) :
    (pack n S).getLsbD i = (decide (32 - n ≤ i ∧ i < 32) && S.getLsbD (i - (32 - n))) := by
  unfold pack
  split
  · next h =>
    subst h
    simp only [BitVec.ofNat_eq_ofNat, BitVec.getLsbD_zero, Nat.sub_zero]
    rw [decide_eq_false (by omega)]; rfl
  · by_cases h1 : i < 32
    · by_cases h2 : 32 - n ≤ i
      · simp [h1, h2, show ¬ i < 32 - n by omega, BitVec.getLsbD_eq_getElem (show i - (32 - n) < 32 by omega)]
      · simp [h1, h2, show i < 32 - n by omega]
    · simp [h1]

theorem getLsbD_unpack (n : Nat) (hn : n ≤ 32) (w : Data) (i : Nat) :
    (unpack n w).getLsbD i = (decide (i < n) && w.getLsbD (32 - n + i)) := by
  unfold unpack
  split
  · next h => subst h; simp
  · by_cases h1 : i < n
    · simp [h1]
    · simp [h1, BitVec.getLsbD_of_ge w (32 - n + i) (by omega)]

/-! ### The lanes of a frame -/

/-- The frame's stream is the stream that was packed. -/
theorem frameStream_pack (S : BitStream) : frameStream (pack 28 (S.setWidth 32)) = S := by
  apply BitVec.eq_of_getLsbD_eq
  intro i hi
  rw [frameStream, BitVec.getLsbD_setWidth, getLsbD_unpack _ (by omega), getLsbD_pack _ (by omega)]
  simp [hi, show 4 + i < 32 by omega, show i < 32 by omega]

/-- The padding of a frame's word does not reach its stream. -/
theorem frameStream_congr {w w' : Data} (h : w >>> 4 = w' >>> 4) : frameStream w = frameStream w' := by
  unfold frameStream unpack
  simp [h]

theorem codewordOf_concat28 (c0 c1 c2 c3 : Codeword) :
    codewordOf 0 (concat28 c0 c1 c2 c3) = c0 ∧ codewordOf 1 (concat28 c0 c1 c2 c3) = c1 ∧
      codewordOf 2 (concat28 c0 c1 c2 c3) = c2 ∧ codewordOf 3 (concat28 c0 c1 c2 c3) = c3 := by
  have key : ∀ i, (concat28 c0 c1 c2 c3).getLsbD i =
      if i < 7 then c3.getLsbD i else if i < 14 then c2.getLsbD (i - 7)
      else if i < 21 then c1.getLsbD (i - 14) else c0.getLsbD (i - 21) := by
    intro i
    refine (BitVec.getLsbD_append (x := c0 ++ c1 ++ c2) (y := c3) (i := i)).trans ?_
    rw [BitVec.getLsbD_append, BitVec.getLsbD_append]
    by_cases h1 : i < 7
    · simp [h1]
    · by_cases h2 : i < 14
      · simp [h1, h2, show i - 7 < 7 by omega]
      · by_cases h3 : i < 21
        · simp [h1, h2, h3, show ¬ i - 7 < 7 by omega, show i - 14 < 7 by omega, show i - 7 - 7 = i - 14 by omega]
        · simp [h1, h2, h3, show ¬ i - 7 < 7 by omega, show ¬ i - 7 - 7 < 7 by omega,
            show i - 7 - 7 - 7 = i - 21 by omega]
  refine ⟨?_, ?_, ?_, ?_⟩ <;> apply BitVec.eq_of_getLsbD_eq <;> intro i hi <;>
    simp only [codewordOf, BitVec.getLsbD_extractLsb', key, hi, decide_true, Bool.true_and]
  · simp [show ¬ 21 + i < 7 by omega, show ¬ 21 + i < 14 by omega, show ¬ 21 + i < 21 by omega]
  · simp [show ¬ 14 + i < 7 by omega, show ¬ 14 + i < 14 by omega, show 14 + i < 21 by omega]
  · simp [show ¬ 7 + i < 7 by omega, show 7 + i < 14 by omega]
  · simp [hi]

/-- The codewords of a value's stream are its encoded units. -/
theorem codewordOf_streamOf (k : Fin 4) (v : Sample) : codewordOf k (streamOf v) = enc7 (unitOf k v) := by
  obtain ⟨h0, h1, h2, h3⟩ := codewordOf_concat28 (enc7 (unitOf 0 v)) (enc7 (unitOf 1 v)) (enc7 (unitOf 2 v)) (enc7 (unitOf 3 v))
  match k with
  | 0 => exact h0
  | 1 => exact h1
  | 2 => exact h2
  | 3 => exact h3

/-- A value is its four units. -/
theorem join16_unitOf (v : Sample) : join16 (unitOf 0 v) (unitOf 1 v) (unitOf 2 v) (unitOf 3 v) = v := by
  apply BitVec.eq_of_getLsbD_eq
  intro i hi
  refine (BitVec.getLsbD_append (x := unitOf 0 v ++ unitOf 1 v ++ unitOf 2 v) (y := unitOf 3 v) (i := i)).trans ?_
  rw [BitVec.getLsbD_append, BitVec.getLsbD_append]
  simp only [unitOf, BitVec.getLsbD_extractLsb']
  by_cases h1 : i < 4
  · simp [h1]
  · by_cases h2 : i - 4 < 4
    · simp [h1, h2, show 4 + (i - 4) = i by omega]
    · by_cases h3 : i - 4 - 4 < 4
      · simp [h1, h2, h3, show 8 + (i - 4 - 4) = i by omega]
      · simp [h1, h2, h3, show i - 4 - 4 - 4 < 4 by omega, show 12 + (i - 4 - 4 - 4) = i by omega]

end Sys2Proof.Machine
end

