-- ==== Sys2Proof/Laws/Encoding.lean ====
section
/-! SUPPORT. The request fields, the operation map and the must-be-0 checks. -/

namespace Sys2Proof

/-! ### Fields of a request word -/

theorem getLsbD_reqWord (op : Op) (len : Len) (din : Data) (i : Nat) :
    (reqWord op len din).getLsbD i =
      if i < 32 then din.getLsbD i else if i < 38 then len.getLsbD (i - 32) else op.getLsbD (i - 38) := by
  refine (BitVec.getLsbD_append (x := op ++ len) (y := din) (i := i)).trans ?_
  rw [BitVec.getLsbD_append]
  by_cases h1 : i < 32
  · simp [h1]
  · by_cases h2 : i < 38
    · simp [h1, h2, show i - 32 < 6 by omega]
    · simp [h1, h2, show ¬ i - 32 < 6 by omega, show i - 32 - 6 = i - 38 by omega]

@[simp] theorem opField_reqWord (op : Op) (len : Len) (din : Data) : opField (reqWord op len din) = op := by
  apply BitVec.eq_of_getLsbD_eq
  intro i hi
  simp [opField, getLsbD_reqWord, hi, show ¬ 38 + i < 32 by omega]

@[simp] theorem lenField_reqWord (op : Op) (len : Len) (din : Data) : lenField (reqWord op len din) = len := by
  apply BitVec.eq_of_getLsbD_eq
  intro i hi
  simp [lenField, getLsbD_reqWord, hi, show 32 + i < 38 by omega]

@[simp] theorem dinField_reqWord (op : Op) (len : Len) (din : Data) : dinField (reqWord op len din) = din := by
  apply BitVec.eq_of_getLsbD_eq
  intro i hi
  simp [dinField, getLsbD_reqWord, hi]

/-- A request word is its three fields. -/
theorem reqWord_fields (w : ReqWord) : reqWord (opField w) (lenField w) (dinField w) = w := by
  apply BitVec.eq_of_getLsbD_eq
  intro i hi
  rw [getLsbD_reqWord]
  by_cases h1 : i < 32
  · simp [h1, dinField]
  · by_cases h2 : i < 38
    · simp [h1, h2, lenField, show i - 32 < 6 by omega, show 32 + (i - 32) = i by omega]
    · simp [h1, h2, opField, show i - 38 < 4 by omega, show 38 + (i - 38) = i by omega]

theorem reqWord_inj {op op' : Op} {len len' : Len} {din din' : Data} :
    reqWord op len din = reqWord op' len' din' ↔ op = op' ∧ len = len' ∧ din = din' := by
  constructor
  · intro h
    refine ⟨?_, ?_, ?_⟩
    · simpa using congrArg opField h
    · simpa using congrArg lenField h
    · simpa using congrArg dinField h
  · rintro ⟨rfl, rfl, rfl⟩; rfl

theorem reqWord_and (op op' : Op) (len len' : Len) (din din' : Data) :
    reqWord op len din &&& reqWord op' len' din' = reqWord (op &&& op') (len &&& len') (din &&& din') := by
  apply BitVec.eq_of_getLsbD_eq
  intro i hi
  simp only [BitVec.getLsbD_and, getLsbD_reqWord]
  split
  · rfl
  · split <;> rfl

/-! ### The operation map -/

@[simp] theorem opNameOf_code (o : OpName) : opNameOf o.code = some o := by cases o <;> rfl

theorem opNameOf_eq_some {c : Op} {o : OpName} : opNameOf c = some o ↔ c = o.code := by
  constructor
  · revert c
    cases o <;> decide
  · rintro rfl; simp

/-- The reserved codes are 0x0 and 0x9 to 0xF (30_encoding.md R50). -/
theorem opNameOf_eq_none {c : Op} : opNameOf c = none ↔ c = 0 ∨ 9 ≤ c.toNat := by
  revert c; decide

/-! ### The must-be-0 checks of 30_encoding.md R49 -/

/-- Masking the bits from `k` up gives 0 exactly when those bits are 0. -/
theorem and_high_eq_zero (k : Nat) (x : Data) : x &&& (BitVec.allOnes 32 <<< k) = 0 ↔ x >>> k = 0 := by
  constructor
  · intro h
    apply BitVec.eq_of_getLsbD_eq
    intro i hi
    have := congrArg (fun y => y.getLsbD (k + i)) h
    by_cases hk : k + i < 32
    · simp only [BitVec.getLsbD_and, BitVec.getLsbD_shiftLeft, BitVec.getLsbD_allOnes, hk,
        show ¬ k + i < k by omega, show k + i - k < 32 by omega, decide_true, decide_false, Bool.not_false,
        Bool.and_true] at this
      rw [BitVec.getLsbD_ushiftRight, this]
      simp
    · simp [BitVec.getLsbD_of_ge x (k + i) (by omega)]
  · intro h
    apply BitVec.eq_of_getLsbD_eq
    intro i hi
    by_cases hk : i < k
    · simp [hk]
    · have := congrArg (fun y => y.getLsbD (i - k)) h
      have e : k + (i - k) = i := by omega
      simp [e] at this
      simp [this]

/-- The mask check of an operation whose `len` must be 0, with the `din` bits from `k` up. -/
theorem mask_check (c op : Op) (len : Len) (din : Data) (k : Nat) :
    reqWord op len din &&& reqWord 0xF 0x3F (BitVec.allOnes 32 <<< k) = reqWord c 0 0
      ↔ op = c ∧ len = 0 ∧ din >>> k = 0 := by
  have h4 : op &&& 0xF = op := by revert op; decide
  have h6 : len &&& 0x3F = len := by revert len; decide
  rw [reqWord_and, reqWord_inj, h4, h6, and_high_eq_zero]

/-- The mask check of an operation that reads all of `len` and `din`. -/
theorem mask_check_op (c op : Op) (len : Len) (din : Data) :
    reqWord op len din &&& reqWord 0xF 0 0 = reqWord c 0 0 ↔ op = c := by
  have h4 : op &&& 0xF = op := by revert op; decide
  rw [reqWord_and, reqWord_inj, h4]
  simp

/-- Each operation's must-be-0 check, in the fields of the request (30_encoding.md R48, R49). -/
theorem fixed_iff (o : OpName) (op : Op) (len : Len) (din : Data) :
    reqWord op len din &&& o.mask = o.fixed ↔
      op = o.code ∧
        match o with
        | .enc => len = 0 ∧ din >>> 4 = 0
        | .dec => len = 0 ∧ din >>> 7 = 0
        | .pack => True
        | .unpack => True
        | .frame => len = 0 ∧ din >>> 16 = 0
        | .deframe => len = 0
        | .frames => len = 0 ∧ din >>> 16 = 0
        | .abs16 => len = 0 ∧ din >>> 16 = 0 := by
  have hd : din >>> 32 = 0 := by
    apply BitVec.eq_of_getLsbD_eq; intro i _; simp
  cases o
  · exact mask_check 0x1 op len din 4
  · exact mask_check 0x2 op len din 7
  · exact (mask_check_op 0x3 op len din).trans (by rw [and_true]; rfl)
  · exact (mask_check_op 0x4 op len din).trans (by rw [and_true]; rfl)
  · exact mask_check 0x5 op len din 16
  · have := mask_check 0x6 op len din 32
    simp only [hd, and_true] at this
    exact this
  · exact mask_check 0x7 op len din 16
  · exact mask_check 0x8 op len din 16

/-! ### The operand fields of a word built from its fields -/

theorem extract_reqWord (n : Nat) (hn : n ≤ 32) (op : Op) (len : Len) (din : Data) :
    (reqWord op len din).extractLsb' 0 n = din.setWidth n := by
  apply BitVec.eq_of_getLsbD_eq
  intro i hi
  simp [getLsbD_reqWord, hi, show i < 32 by omega]

/-- A word with no bit from `n` up is the extension of its low `n` bits. -/
theorem setWidth_setWidth_of_high_zero (n : Nat) (x : Data) (h : x >>> n = 0) :
    (x.setWidth n).setWidth 32 = x := by
  apply BitVec.eq_of_getLsbD_eq
  intro i hi
  by_cases hn : i < n
  · simp [hn, hi]
  · have := congrArg (fun y => y.getLsbD (i - n)) h
    have e : n + (i - n) = i := by omega
    simp [e] at this
    simp [hn, this]

end Sys2Proof
end

