-- ==== Sys2Proof/Laws/Decoding.lean ====
section
/-! SUPPORT. What the decoder answers for a request word, given by its fields. -/

namespace Sys2Proof

/-- The operand fields fit the operation (30_encoding.md R48, R49): the checks the decoder makes. -/
def Fits (o : OpName) (len : Len) (din : Data) : Prop :=
  match o with
  | .enc => len = 0 ∧ din >>> 4 = 0
  | .dec => len = 0 ∧ din >>> 7 = 0
  | .pack => len.toNat ≤ 32
  | .unpack => len.toNat ≤ 32
  | .frame => len = 0 ∧ din >>> 16 = 0
  | .deframe => len = 0
  | .frames => len = 0 ∧ din >>> 16 = 0
  | .abs16 => len = 0 ∧ din >>> 16 = 0

theorem packMax_lt_iff (len : Len) : Config.packMax < len ↔ ¬ len.toNat ≤ 32 := by
  rw [BitVec.lt_def, Nat.not_le]; rfl

theorem le_packMax_iff (len : Len) : len ≤ Config.packMax ↔ len.toNat ≤ 32 := by
  rw [BitVec.le_def]; rfl

/-- The two checks of 30_encoding.md R49 together say that the operand fields fit. -/
theorem checks_iff_fits (o : OpName) (len : Len) (din : Data) :
    (reqWord o.code len din &&& o.mask = o.fixed ∧ ¬ (o.takesLen && Config.packMax < len) = true) ↔
      Fits o len din := by
  rw [fixed_iff]
  cases o <;> simp [Fits, OpName.takesLen, packMax_lt_iff]

theorem decode_reserved {op : Op} (h : opNameOf op = none) (len : Len) (din : Data) :
    decode (reqWord op len din) = .error (.reservedOp op) := by
  simp [decode, h]

theorem decode_fits {o : OpName} {len : Len} {din : Data} (h : Fits o len din) :
    decode (reqWord o.code len din) = .ok (operandsOf o (reqWord o.code len din)) := by
  obtain ⟨h1, h2⟩ := (checks_iff_fits o len din).mpr h
  rw [decode, opField_reqWord, opNameOf_code]
  simp only [ne_eq, h1, not_true_eq_false, if_false, lenField_reqWord, if_neg h2]

theorem decode_not_fits {o : OpName} {len : Len} {din : Data} (h : ¬ Fits o len din) :
    decode (reqWord o.code len din) = .error (.invalidInput o) := by
  rw [← checks_iff_fits] at h
  rw [decode, opField_reqWord, opNameOf_code]
  by_cases h1 : reqWord o.code len din &&& o.mask = o.fixed
  · have h2 : (o.takesLen && Config.packMax < len) = true := Classical.byContradiction fun h2 => h ⟨h1, h2⟩
    simp only [ne_eq, h1, not_true_eq_false, if_false, lenField_reqWord, if_pos h2]
  · simp only [ne_eq, h1, not_false_eq_true, if_true]

/-- The operands of a word built from its fields. -/
theorem operandsOf_reqWord (o : OpName) (op : Op) (len : Len) (din : Data) :
    operandsOf o (reqWord op len din) =
      match o with
      | .enc => .enc (din.setWidth 4)
      | .dec => .dec (din.setWidth 7)
      | .pack => .pack len din
      | .unpack => .unpack len din
      | .frame => .frame (din.setWidth 16)
      | .deframe => .deframe din
      | .frames => .frames (din.setWidth 16)
      | .abs16 => .abs16 (din.setWidth 16) := by
  cases o <;> simp [operandsOf, extract_reqWord]

end Sys2Proof
end

