-- ==== Sys2Proof/Laws/State.lean ====
section
/-! SUPPORT. What each update of the state does to each field. -/

namespace Sys2Proof.Machine

section Present
variable (s : State) (w : ReqWord) (rest : List ReqWord)

@[simp] theorem present_reqOp : (s.present w rest).reqOp = opField w := rfl
@[simp] theorem present_reqLen : (s.present w rest).reqLen = lenField w := rfl
@[simp] theorem present_reqDin : (s.present w rest).reqDin = dinField w := rfl
@[simp] theorem present_rspErr : (s.present w rest).rspErr = s.rspErr := rfl
@[simp] theorem present_rspDout : (s.present w rest).rspDout = s.rspDout := rfl
@[simp] theorem present_pending : (s.present w rest).pending = rest := rfl
@[simp] theorem present_observed : (s.present w rest).observed = s.observed := rfl

end Present

section Respond
variable (e : ErrCode) (d : Data) (s : State)

@[simp] theorem respond_reqOp : (respond e d s).reqOp = s.reqOp := rfl
@[simp] theorem respond_reqLen : (respond e d s).reqLen = s.reqLen := rfl
@[simp] theorem respond_reqDin : (respond e d s).reqDin = s.reqDin := rfl
@[simp] theorem respond_rspErr : (respond e d s).rspErr = e.code := rfl
@[simp] theorem respond_rspDout : (respond e d s).rspDout = d := rfl
@[simp] theorem respond_pending : (respond e d s).pending = s.pending := rfl
@[simp] theorem respond_observed : (respond e d s).observed = s.observed := rfl
@[simp] theorem respond_reqPort : (respond e d s).reqPort = s.reqPort := rfl
@[simp] theorem respond_rspPort : (respond e d s).rspPort = rspWord e.code d := rfl

end Respond

section Record
variable (s : State)

@[simp] theorem record_reqOp : (record s).reqOp = s.reqOp := rfl
@[simp] theorem record_reqLen : (record s).reqLen = s.reqLen := rfl
@[simp] theorem record_reqDin : (record s).reqDin = s.reqDin := rfl
@[simp] theorem record_rspErr : (record s).rspErr = s.rspErr := rfl
@[simp] theorem record_rspDout : (record s).rspDout = s.rspDout := rfl
@[simp] theorem record_pending : (record s).pending = s.pending := rfl
@[simp] theorem record_observed : (record s).observed = s.observed ++ [(s.reqPort, s.rspPort)] := rfl
@[simp] theorem record_reqPort : (record s).reqPort = s.reqPort := rfl
@[simp] theorem record_rspPort : (record s).rspPort = s.rspPort := rfl

end Record

/-- Raising an error is responding with its code and no result. -/
theorem raise_eq (e : DecodeError) (s : State) : raise e s = respond (errCodeOf e) 0 s := rfl

end Sys2Proof.Machine
end

