-- ==== Sys2Proof/Laws/Ops.lean ====
section
/-! SUPPORT. What the shared operations, an instruction and a step can do. -/

namespace Sys2Proof.Machine

@[simp] theorem present_reqPort (s : State) (w : ReqWord) (rest : List ReqWord) :
    (s.present w rest).reqPort = w := reqWord_fields w

theorem nextRequest_cons {s : State} {w : ReqWord} {rest : List ReqWord} (h : s.pending = w :: rest) :
    nextRequest s = some (s.present w rest) := by simp [nextRequest, h]

theorem nextRequest_nil {s : State} (h : s.pending = []) : nextRequest s = none := by simp [nextRequest, h]

/-- All that an instruction can do: it drives the response ports, with an answer that does not depend on the
state. -/
theorem exec_responds (i : Instr) : ∃ e d, ∀ s, exec i s = .next (respond e d s) := by
  cases i with
  | enc n => exact ⟨_, _, fun _ => rfl⟩
  | dec cw => exact ⟨_, _, fun _ => rfl⟩
  | pack n din =>
    by_cases h : n ≤ Config.packMax
    · exact ⟨_, _, fun _ => if_pos h⟩
    · exact ⟨_, _, fun _ => if_neg h⟩
  | unpack n din =>
    by_cases h : n ≤ Config.packMax
    · exact ⟨_, _, fun _ => if_pos h⟩
    · exact ⟨_, _, fun _ => if_neg h⟩
  | frame v => exact ⟨_, _, fun _ => rfl⟩
  | deframe w => exact ⟨_, _, fun _ => rfl⟩
  | frames x => exact ⟨_, _, fun _ => rfl⟩
  | abs16 x => exact ⟨_, _, fun _ => rfl⟩

/-- All that a step can do: without a request it stops; with one, it answers it and records the pair. -/
theorem step_cases (s : State) :
    (s.pending = [] ∧ step s = .refused .noRequest) ∨
      ∃ w rest e d, s.pending = w :: rest ∧ step s = .next (record (respond e d (s.present w rest))) := by
  rcases hp : s.pending with _ | ⟨w, rest⟩
  · exact .inl ⟨rfl, by simp [step, nextRequest_nil hp]⟩
  · cases hd : decode w with
    | error e =>
      exact .inr ⟨w, rest, errCodeOf e, 0, rfl, by simp [step, nextRequest_cons hp, present_reqPort, hd, raise]⟩
    | ok i =>
      obtain ⟨e, d, h⟩ := exec_responds i
      exact .inr ⟨w, rest, e, d, rfl, by
        simp [step, nextRequest_cons hp, present_reqPort, hd, h, recordOutcome]⟩

end Sys2Proof.Machine
end

