-- ==== Sys2Proof/Laws/PerInstr.lean ====
section
/-! SUPPORT. One law for each instruction as syntax: its request word matches its own row of the table of
30_encoding.md R49, and its operation code selects its own operation. -/

namespace Sys2Proof.Laws.RowMatch

/-- The encoding of `i` has the match value of its operation under the mask, and its operation code. -/
def Statement (i : Instr) : Prop :=
  encode i &&& i.opName.mask = i.opName.fixed ∧ opNameOf (opField (encode i)) = some i.opName

/-- A zero-extended operand has no bit from its width up. -/
theorem shift_setWidth (n : Nat) (x : BitVec n) : (x.setWidth 32 : Data) >>> n = 0 := by
  apply BitVec.eq_of_getLsbD_eq
  intro j _
  simp

theorem of_fixed {i : Instr} (h : encode i &&& i.opName.mask = i.opName.fixed) : Statement i :=
  ⟨h, by simp [encode]⟩

theorem enc (n : DataUnit) : Statement (.enc n) :=
  of_fixed ((fixed_iff .enc _ _ _).mpr ⟨rfl, rfl, shift_setWidth 4 n⟩)

theorem dec (cw : Codeword) : Statement (.dec cw) :=
  of_fixed ((fixed_iff .dec _ _ _).mpr ⟨rfl, rfl, shift_setWidth 7 cw⟩)

theorem pack (n : Len) (din : Data) : Statement (.pack n din) :=
  of_fixed ((fixed_iff .pack _ _ _).mpr ⟨rfl, trivial⟩)

theorem unpack (n : Len) (din : Data) : Statement (.unpack n din) :=
  of_fixed ((fixed_iff .unpack _ _ _).mpr ⟨rfl, trivial⟩)

theorem frame (v : Sample) : Statement (.frame v) :=
  of_fixed ((fixed_iff .frame _ _ _).mpr ⟨rfl, rfl, shift_setWidth 16 v⟩)

theorem deframe (w : Data) : Statement (.deframe w) :=
  of_fixed ((fixed_iff .deframe _ _ _).mpr ⟨rfl, rfl⟩)

theorem frames (x : Sample) : Statement (.frames x) :=
  of_fixed ((fixed_iff .frames _ _ _).mpr ⟨rfl, rfl, shift_setWidth 16 x⟩)

theorem abs16 (x : Sample) : Statement (.abs16 x) :=
  of_fixed ((fixed_iff .abs16 _ _ _).mpr ⟨rfl, rfl, shift_setWidth 16 x⟩)

end Sys2Proof.Laws.RowMatch
end

