-- ==== Sys2Proof/Tests/Slice0.lean ====
section
/-! SUPPORT. The model's own tests, and for each statement with hypotheses a witness that meets them. Expected
results come from spec/95_test_vectors.md (the section is named at each test) or are worked out by hand from the
rule that is named. -/

namespace Sys2Proof.Tests

open Sys2Proof Sys2Proof.Machine

/-! ### Helpers -/

/-- The state after reset with `l` as the requests to come. -/
def st (l : List ReqWord) : State := { State.reset with pending := l }

/-- The response ports after one step of a run that presents `w`. -/
def rsp (w : ReqWord) : Option (Err × Data) :=
  match step (st [w]) with
  | .next t => some (t.rspErr, t.rspDout)
  | .fault _ => none
  | .refused _ => none

/-- The state a step answers, if it answers one. -/
def stepped (s : State) : Option State :=
  match step s with
  | .next t => some t
  | .fault _ => none
  | .refused _ => none

/-- What the decoder reads from a word, none where it refuses it. -/
def decoded (w : ReqWord) : Option Instr := (decode w).toOption

/-- The request words of a line of text. -/
def asm (text : String) : Option (List ReqWord) := (Asm.assembleText text.toList).toOption

/-! ### Well-formedness: the one check, for PACK and for UNPACK -/

theorem test_wf_pack_33 : (Instr.pack 33 0).wf = false := by decide
theorem test_wf_unpack_33 : (Instr.unpack 33 0).wf = false := by decide
theorem test_wf_pack_63 : (Instr.pack 63 0).wf = false := by decide
theorem test_wf_unpack_63 : (Instr.unpack 63 0).wf = false := by decide
theorem test_wf_pack_32 : (Instr.pack 32 0xFFFFFFFF).wf = true := by decide
theorem test_wf_unpack_32 : (Instr.unpack 32 0xFFFFFFFF).wf = true := by decide

/-! ### Decoding: words written out as op, len and din from 30_encoding.md R44, R47, R48 -/

-- 0001 | 000000 | 28 zero bits, nnnn = 1011
theorem test_decode_enc : decoded 0b0001_000000_0000000000000000000000000000_1011 = some (.enc 0xB) := by decide
-- 0010 | 000000 | 25 zero bits, ccccccc = 0110010
theorem test_decode_dec : decoded 0b0010_000000_0000000000000000000000000_0110010 = some (.dec 0x32) := by decide
-- 0011 | llllll = 011100 | the stream of 0x1234
theorem test_decode_pack :
    decoded 0b0011_011100_00001101001010101010000111001100 = some (.pack 28 0x0D2AA1CC) := by decide
-- 0100 | llllll = 100000 | all 32 bits
theorem test_decode_unpack :
    decoded 0b0100_100000_10000000000000000000000000000001 = some (.unpack 32 0x80000001) := by decide
-- 0101 | 000000 | 16 zero bits, v = 0x1234
theorem test_decode_frame :
    decoded 0b0101_000000_0000000000000000_0001001000110100 = some (.frame 0x1234) := by decide
-- 0110 | 000000 | the four bytes of a frame
theorem test_decode_deframe :
    decoded 0b0110_000000_11010010101010100001110011000000 = some (.deframe 0xD2AA1CC0) := by decide
-- 0111 | 000000 | 16 zero bits, x = 0xFFFB
theorem test_decode_frames :
    decoded 0b0111_000000_0000000000000000_1111111111111011 = some (.frames 0xFFFB) := by decide
-- 1000 | 000000 | 16 zero bits, x = 0x8000
theorem test_decode_abs16 :
    decoded 0b1000_000000_0000000000000000_1000000000000000 = some (.abs16 0x8000) := by decide

/-- PACK with a count of 33, ENC with `din[4]` set, DEFRAME with a count, and the first and last reserved codes. -/
theorem test_decode_refuses :
    decode 0b0011_100001_00000000000000000000000000000000 = .error (.invalidInput .pack) ∧
    decode 0b0001_000000_00000000000000000000000000010000 = .error (.invalidInput .enc) ∧
    decode 0b0110_000001_00000000000000000000000000000000 = .error (.invalidInput .deframe) ∧
    decode 0b0000_000000_00000000000000000000000000000000 = .error (.reservedOp 0x0) ∧
    decode 0b1111_111111_11111111111111111111111111111111 = .error (.reservedOp 0xF) := ⟨rfl, rfl, rfl, rfl, rfl⟩

/-- The host's numbering: 48 bits hold one 42-bit request, and no request has a bit above `req[41]`. -/
theorem test_table_word :
    decodeTableWord 48 0x0400000000B = some (.enc 0xB) ∧ decodeTableWord 48 0x4400000000B = none ∧
    decodeTableWord 48 0x28000000000 = none ∧
    stepped (State.reset.withFetchWord 48 0x0400000000B) = stepped (st [0x0400000000B]) := by decide

/-! ### The operations, at the ports -/

-- 95_test_vectors.md L2.1, L2.4
theorem test_enc_0xB : rsp 0x0400000000B = some (0b00, 0x00000033) := by decide
theorem test_enc_wide : rsp 0x04000000010 = some (0b01, 0x00000000) := by decide
-- L1.1, L2.4: position 7 flipped; and three errors that leave no syndrome
theorem test_dec_0x32 : rsp 0x08000000032 = some (0b00, 0x000033FB) := by decide
theorem test_dec_0x70 : rsp 0x08000000070 = some (0b00, 0x00007008) := by decide
-- L2.5
theorem test_pack_9 : rsp 0x0C9000001FF = some (0b00, 0xFF800000) := by decide
theorem test_pack_33 : rsp 0x0E100000000 = some (0b01, 0x00000000) := by decide
-- 41_split_pack.md R75
theorem test_unpack_28 : rsp 0x11CD2AA1CC9 = some (0b00, 0x0D2AA1CC) := by decide
-- 41_split_pack.md R75, by hand: no bit is shifted out
theorem test_unpack_32 : rsp 0x12080000001 = some (0b00, 0x80000001) := by decide
-- 42_frame.md R82
theorem test_frame_0x1234 : rsp 0x14000001234 = some (0b00, 0xD2AA1CC0) := by decide
theorem test_frame_0x8000 : rsp 0x14000008000 = some (0b00, 0xE0000000) := by decide
-- 42_frame.md R86
theorem test_deframe_one_error : rsp 0x180D2EA1CC0 = some (0b00, 0x40C01234) := by decide
theorem test_deframe_two_errors : rsp 0x180D2AA1C00 = some (0b00, 0x10011230) := by decide
-- 42_frame.md R83
theorem test_frames_minus_5 : rsp 0x1C00000FFFB = some (0b00, 0x00000250) := by decide
theorem test_frames_0x8000 : rsp 0x1C000008000 = some (0b00, 0xE0000000) := by decide
-- 41_split_pack.md R79, R78
theorem test_abs16_minus_5 : rsp 0x2000000FFFB = some (0b00, 0x00000005) := by decide
theorem test_abs16_0x8000 : rsp 0x20000008000 = some (0b00, 0x00008000) := by decide
-- 60_exceptions.md R94, R96: a reserved code with operand fields that fit no operation
theorem test_reserved : rsp 0x3FFFFFFFFFF = some (0b10, 0x00000000) := by decide

/-- The self-test of L1.1 as one run, and the run's end. -/
theorem test_selftest_run :
    (stepped (st [0x0400000000B])).map State.observed = some [(0x0400000000B, 0x000000033)] ∧
    stepped (st []) = none := by decide

/-! ### The list level and the assembler -/

-- L1.1: the literal of the source is no codeword, the formulas' one is (90_conflicts.md C2)
theorem test_list_encode : ListLevel.encode [1, 0, 1, 1] = .ok [0, 1, 1, 0, 0, 1, 1] := rfl
theorem test_list_decode : ListLevel.decode [0, 1, 1, 0, 0, 1, 0] =
    .ok { unit := [1, 0, 1, 1], syndrome := 7, corrected := true, codeword := [0, 1, 1, 0, 0, 1, 1] } := rfl
theorem test_list_encode_not_binary : ListLevel.encode [1, 0, 2, 1] = .error .invalidInput := rfl
-- 42_frame.md R82's example, as bytes
theorem test_list_frame :
    (ListLevel.encodeSample16 0x1234).toOption = some [0xD2, 0xAA, 0x1C, 0xC0] := by decide
theorem test_asm_negative : asm "  FRAMES -5 ; sign lost" = some [0x1C00000FFFB] := by decide
theorem test_asm_bit_list : asm "DEC [0, 1,1,0,0,1,1]" = some [0x08000000033] := by decide
theorem test_asm_pack_list : asm "PACK [1,1,1]" = some [0x0C300000007] := by decide
theorem test_asm_wide : asm "ENC 16" = none := by decide
theorem test_asm_omitted : asm "PACK 3" = none := by decide

/-! ### Witnesses: states and operands that meet the hypotheses of each statement -/

theorem witness_DecodeInvertsEncode :
    (Instr.pack 32 0xFFFFFFFF).wf = true ∧ (Instr.unpack 0 0xFFFFFFFF).wf = true ∧ (Instr.enc 0xF).wf = true := by
  decide

theorem witness_EncodeInvertsDecode : decode 0x11CD2AA1CC9 = .ok (.unpack 28 0xD2AA1CC9) := rfl

theorem witness_LegalRequestsDecode :
    (∃ i, decode 0x120FFFFFFFF = .ok i) ∧ ∃ op : OpName, opField 0x120FFFFFFFF = op.code ∧
      0x120FFFFFFFF &&& op.mask = op.fixed ∧ (op = .pack ∨ op = .unpack → (lenField 0x120FFFFFFFF).toNat ≤ 32) :=
  ⟨⟨.unpack 32 0xFFFFFFFF, rfl⟩, .unpack, rfl, rfl, fun _ => by decide⟩

theorem witness_NoRequestMatchesTwoRows :
    (0x0400000000B : ReqWord) &&& OpName.enc.mask = OpName.enc.fixed := by decide

/-- Three pending requests: one that decodes, one of a reserved code, one whose operand does not fit. -/
def mixed : List ReqWord := [0x0400000000B, 0x00000000000, 0x04000000010]

theorem witness_StepRunsDecodedInstruction :
    (st mixed).pending = 0x0400000000B :: mixed.drop 1 ∧ decode 0x0400000000B = .ok (.enc 0xB) ∧
    (st (mixed.drop 1)).pending = 0x00000000000 :: mixed.drop 2 ∧
    decode 0x00000000000 = .error (.reservedOp 0) ∧
    (st (mixed.drop 2)).pending = 0x04000000010 :: [] ∧ decode 0x04000000010 = .error (.invalidInput .enc) :=
  ⟨rfl, rfl, rfl, rfl, rfl, rfl⟩

theorem witness_StepAnswersRespond : ∃ w rest, (st mixed).pending = w :: rest := ⟨_, _, rfl⟩

theorem witness_RequestOrderIsImmaterial :
    (st [0x0400000000B, 0x00000000000]).observed = [] ∧ (st [0x00000000000, 0x0400000000B]).observed = [] ∧
    (st [0x0400000000B, 0x00000000000]).pending.Perm (st [0x00000000000, 0x0400000000B]).pending :=
  ⟨rfl, rfl, List.Perm.swap _ _ _⟩

theorem witness_RepeatedRequestGetsSameResponse :
    ∃ w rest, (st [0x0400000000B, 0x0400000000B, 0]).pending = w :: w :: rest := ⟨_, _, rfl⟩

theorem witness_ResponseForgetsHistory :
    ∃ (s s' : State) (w : ReqWord) (rest rest' : List ReqWord), s ≠ s' ∧ rest ≠ rest' ∧
      s.pending = w :: rest ∧ s'.pending = w :: rest' :=
  ⟨st [0x0400000000B], { st [0x0400000000B, 0] with reqOp := 5, rspDout := 7 }, 0x0400000000B, [], [0],
    by decide, by decide, rfl, rfl⟩

theorem witness_RunInvariantKept : ∃ s t : State, s.Inv ∧ step s = .next t :=
  ⟨st mixed, _, ⟨rfl, by simp [st, State.reset]⟩, rfl⟩

theorem witness_SettledSampleIsTheResponse :
    ∃ (s : State) (w : ReqWord) (rest : List ReqWord) (held : Nat), s.pending = w :: rest ∧ Config.tSettle ≤ held :=
  ⟨st mixed, _, _, Config.tSettle, rfl, Nat.le_refl _⟩

/-- Operation codes 0, 9 and 15. -/
theorem witness_ReservedOpsAnswerReservedOp :
    ((st [0x00000000000]).pending = 0x00000000000 :: [] ∧ opField 0x00000000000 = 0x0) ∧
    ((st [0x24000000000]).pending = 0x24000000000 :: [] ∧ 0x9 ≤ (opField 0x24000000000).toNat ∧
      (opField 0x24000000000).toNat ≤ 0xF) ∧
    ((st [0x3FFFFFFFFFF]).pending = 0x3FFFFFFFFFF :: [] ∧ 0x9 ≤ (opField 0x3FFFFFFFFFF).toNat ∧
      (opField 0x3FFFFFFFFFF).toNat ≤ 0xF) := by decide

/-- For each operation a request whose length field does not fit, or one whose operand does not. -/
theorem witness_InvalidInputExactly :
    InvalidOperands 0x1 1 0 ∧ InvalidOperands 0x1 0 0x10 ∧ InvalidOperands 0x2 0 0x80 ∧ InvalidOperands 0x3 33 0 ∧
    InvalidOperands 0x4 63 0 ∧ InvalidOperands 0x5 0 0x10000 ∧ InvalidOperands 0x6 1 0 ∧
    InvalidOperands 0x7 0 0x10000 ∧ InvalidOperands 0x8 0 0x10000 ∧ (st mixed).pending = 0x0400000000B :: mixed.drop 1 := by
  simp [InvalidOperands, st, mixed]

/-- The three clauses: a reserved code, an operand that does not fit, and a request that is legal. -/
theorem witness_ErrorPriority :
    Reserved (opField 0x3FFFFFFFFFF) ∧
    (¬ Reserved (opField 0x04000000010) ∧
      InvalidOperands (opField 0x04000000010) (lenField 0x04000000010) (dinField 0x04000000010)) ∧
    (¬ Reserved (opField 0x0400000000F) ∧
      ¬ InvalidOperands (opField 0x0400000000F) (lenField 0x0400000000F) (dinField 0x0400000000F)) := by
  simp [Reserved, InvalidOperands, opField, lenField, dinField]

theorem witness_ErrorsCarryNoResultAndAreRecoverable :
    (st (mixed.drop 1)).pending = 0x00000000000 :: mixed.drop 2 ∧ decode 0x00000000000 = .error (.reservedOp 0) ∧
    (∃ w' rest', mixed.drop 2 = w' :: rest') ∧ decode 0x04000000010 = .error (.invalidInput .enc) :=
  ⟨rfl, rfl, ⟨_, _, rfl⟩, rfl⟩

theorem witness_ErrorCodesOfResponses :
    ∃ (s : State) (w : ReqWord) (rest : List ReqWord), s.pending = w :: rest ∧
      ∃ t, step s = .next t ∧ t.rspErr ≠ 0b00 :=
  ⟨st (mixed.drop 1), _, _, rfl, _, rfl, by decide⟩

theorem witness_InstructionsDriveOnlyTheResponsePorts :
    (∃ t, exec (.enc 0xB) (st mixed) = .next t) ∧ (∃ t, exec (.pack 33 0) (st mixed) = .next t) ∧
    ∃ t, exec (.deframe 0xD2AA1CC0) (st mixed) = .next t := ⟨⟨_, rfl⟩, ⟨_, rfl⟩, ⟨_, rfl⟩⟩

/-- One instruction of each constructor. -/
theorem witness_WellFormedInstructionsAnswerOk :
    ∀ i ∈ [Instr.enc 0xF, .dec 0x7F, .pack 32 1, .unpack 32 1, .frame 0xFFFF, .deframe 0xFFFFFFFF, .frames 0x8000,
      .abs16 0x8000], i.wf = true := by decide

/-- Accepted; a length that is not 0; `din[4]` set; and the example. -/
theorem witness_EncRequest :
    (opField 0x0400000000F = 0x1 ∧ lenField 0x0400000000F = 0 ∧ (dinField 0x0400000000F).extractLsb' 4 28 = 0) ∧
    (opField 0x04100000000 = 0x1 ∧ lenField 0x04100000000 ≠ 0) ∧
    (opField 0x04000000010 = 0x1 ∧ (dinField 0x04000000010).extractLsb' 4 28 ≠ 0) ∧
    enc7 0x3 = enc7 0x3 ∧ (st [0x0400000000B]).pending = 0x0400000000B :: [] := by decide

/-- The first and the last position. -/
theorem witness_SingleBitErrorsAreCorrected : (1 ≤ 1 ∧ 1 ≤ 7) ∧ ((1 : Nat) ≤ 7 ∧ 7 ≤ 7) ∧ (0 < 7 ∧ 6 < 7) := by decide

/-- Two errors, three with no syndrome, three with one, seven, and one. -/
theorem witness_MultiBitErrorsAreMiscorrected :
    (errorPositions 0x60).length = 2 ∧
    ((errorPositions 0x70).length = 3 ∧ (dec7 (enc7 0x0 ^^^ 0x70)).syn = 0) ∧
    ((errorPositions 0x68).length = 3 ∧ (dec7 (enc7 0x0 ^^^ 0x68)).syn ≠ 0) ∧
    2 ≤ (errorPositions 0x7F).length ∧ (errorPositions 0x01).length = 1 := by decide

/-- Accepted with `din[6]` set; a length that is not 0; `din[7]` set; and the example. -/
theorem witness_DecRequest :
    (opField 0x0800000007F = 0x2 ∧ lenField 0x0800000007F = 0 ∧ (dinField 0x0800000007F).extractLsb' 7 25 = 0) ∧
    (opField 0x08100000000 = 0x2 ∧ lenField 0x08100000000 ≠ 0) ∧
    (opField 0x08000000080 = 0x2 ∧ (dinField 0x08000000080).extractLsb' 7 25 ≠ 0) ∧
    (4 ∈ [1, 2, 4]) ∧ (st [0x08000000032]).pending = 0x08000000032 :: [] := by decide

/-- The largest count that is taken, and the smallest that is not. -/
theorem witness_PackAndUnpackShift : (32 : Len).toNat ≤ 32 ∧ (0 : Len).toNat ≤ 32 ∧ 32 < (33 : Len).toNat := by decide

/-- Counts 0, 32, 33 and 63; a sequence of one 1; operands that differ only above the sequence; the example. -/
theorem witness_PackRequest :
    (opField 0x0C0FFFFFFFF = 0x3 ∧ (lenField 0x0C0FFFFFFFF).toNat = 0) ∧
    (opField 0x0E0FFFFFFFF = 0x3 ∧ (lenField 0x0E0FFFFFFFF).toNat = 32) ∧
    (opField 0x0E100000000 = 0x3 ∧ 33 ≤ (lenField 0x0E100000000).toNat) ∧
    (opField 0x0FF00000000 = 0x3 ∧ 33 ≤ (lenField 0x0FF00000000).toNat) ∧
    (1 : Data).getLsbD 0 = true ∧
    ((4 : Len).toNat ≤ 32 ∧ ∀ i < (4 : Len).toNat, (0x5 : Data).getLsbD i = (0xFFFFFFF5 : Data).getLsbD i) ∧
    (st [0x0C9000001FF]).pending = 0x0C9000001FF :: [] := by decide

theorem witness_PackPutsTheFirstBitFirst :
    (28 : Len).toNat ≤ 32 ∧ 27 < (28 : Len).toNat ∧ 3 < 32 - (28 : Len).toNat := by decide

/-- Counts 0, 32, 33 and 63; operands that differ only in the padding; a sequence of its length; the example. -/
theorem witness_UnpackRequest :
    (opField 0x100FFFFFFFF = 0x4 ∧ (lenField 0x100FFFFFFFF).toNat = 0) ∧
    (opField 0x120FFFFFFFF = 0x4 ∧ (lenField 0x120FFFFFFFF).toNat = 32) ∧
    (opField 0x12100000000 = 0x4 ∧ 33 ≤ (lenField 0x12100000000).toNat) ∧
    (opField 0x13F00000000 = 0x4 ∧ 33 ≤ (lenField 0x13F00000000).toNat) ∧
    ((28 : Len).toNat ≤ 32 ∧ ∀ i < 32, 32 - (28 : Len).toNat ≤ i →
      (0xD2AA1CC0 : Data).getLsbD i = (0xD2AA1CCF : Data).getLsbD i) ∧
    (0xFFFFFFF : Data).toNat < 2 ^ 28 ∧ (0xFFFFFFFF : Data).toNat < 2 ^ 32 ∧ (0 : Data).toNat < 2 ^ 0 ∧
    (st [0x11CD2AA1CC9]).pending = 0x11CD2AA1CC9 :: [] := by decide

theorem witness_PaddingIsIgnored :
    (28 : Len).toNat ≤ 32 ∧ ∀ j < (28 : Len).toNat,
      (0xD2AA1CC0 : Data).getLsbD (31 - j) = (0xD2AA1CCF : Data).getLsbD (31 - j) := by decide

theorem witness_FrameStreamPacksToFourBytes :
    (List.replicate 28 1).length = 28 ∧ ListLevel.allBits (List.replicate 28 1) = true := by decide

/-- Accepted with the sign bit set; a length; `din[16]` set; the sign-extended -5; and the example. -/
theorem witness_Abs16Request :
    (opField 0x2000000FFFB = 0x8 ∧ lenField 0x2000000FFFB = 0 ∧ (dinField 0x2000000FFFB).extractLsb' 16 16 = 0) ∧
    (opField 0x20100000000 = 0x8 ∧ lenField 0x20100000000 ≠ 0) ∧
    (opField 0x20000010000 = 0x8 ∧ (dinField 0x20000010000).extractLsb' 16 16 ≠ 0) ∧
    ((0xFFFB : Sample).getLsbD 15 = true ∧
      (st [0x200FFFFFFFB]).pending = reqWord 0x8 0 ((0xFFFB : Sample).signExtend 32) :: []) ∧
    (st [0x2000000FFFB]).pending = 0x2000000FFFB :: [] := by decide

/-- A value above 0x8000 is no sample's magnitude; 0x8000 and 5 are. -/
theorem witness_FrameConcatenatesTheCodewords : abs16 0x8000 = 0x8000 ∧ abs16 0xFFFB = 0x0005 := by decide

/-- Accepted with every bit of the value set; a length; `din[16]` set; and the example. -/
theorem witness_FrameRequest :
    (opField 0x1400000FFFF = 0x5 ∧ lenField 0x1400000FFFF = 0 ∧ (dinField 0x1400000FFFF).extractLsb' 16 16 = 0) ∧
    (opField 0x14100000000 = 0x5 ∧ lenField 0x14100000000 ≠ 0) ∧
    (opField 0x14000010000 = 0x5 ∧ (dinField 0x14000010000).extractLsb' 16 16 ≠ 0) ∧
    (st [0x14000001234]).pending = 0x14000001234 :: [] := by decide

/-- Accepted with the sign bit set; a length; `din[16]` set; and the example. -/
theorem witness_FramesRequest :
    (opField 0x1C000008000 = 0x7 ∧ lenField 0x1C000008000 = 0 ∧ (dinField 0x1C000008000).extractLsb' 16 16 = 0) ∧
    (opField 0x1C100000000 = 0x7 ∧ lenField 0x1C100000000 ≠ 0) ∧
    (opField 0x1C000010000 = 0x7 ∧ (dinField 0x1C000010000).extractLsb' 16 16 ≠ 0) ∧
    (st [0x1C00000FFFB]).pending = 0x1C00000FFFB :: [] := by decide

/-- The least sample and 0. -/
theorem witness_FramesLosesTheSign : (0x8000 : Sample).toInt < 0 ∧ 0 ≤ (0x0000 : Sample).toInt := by decide

/-- Accepted, with its four lanes; a length; and the example. -/
theorem witness_DeframeRequest :
    (opField 0x180FFFFFFFF = 0x6 ∧ lenField 0x180FFFFFFFF = 0 ∧
      ∃ l : Fin 4 → Decoded, ∀ k, l k = dec7 (codewordOf k ((dinField 0x180FFFFFFFF).extractLsb' 4 28))) ∧
    (opField 0x18100000000 = 0x6 ∧ lenField 0x18100000000 ≠ 0) ∧
    (st [0x180D2EA1CC0]).pending = 0x180D2EA1CC0 :: [] :=
  ⟨⟨by decide, by decide, _, fun _ => rfl⟩, ⟨by decide, by decide⟩, rfl⟩

theorem witness_FrameStreamAndByteOrder : (1 ≤ 1 ∧ 1 ≤ 7) ∧ (7 < 8 ∧ 8 * (2 : Fin 4).val + 7 < 28) ∧
    (3 < 8 ∧ 8 * (3 : Fin 4).val + 3 < 28) := by decide

/-- A pattern with a clean lane 0, one flip at position 1 of lane 1 and at position 7 of lane 2, two flips in lane 3;
and one whose lanes have at most one flip. -/
theorem witness_FrameErrorTolerance :
    codewordOf 0 0x0100083 = 0 ∧ codewordOf 1 0x0100083 = posMask 1 ∧ codewordOf 2 0x0100083 = posMask 7 ∧
    2 ≤ (errorPositions (codewordOf 3 0x0100083)).length ∧
    ∀ k : Fin 4, (errorPositions (codewordOf k 0x0100081)).length ≤ 1 := by decide

/-- Values, samples and frames that share one lane and differ in another. -/
theorem witness_LanesAreIndependent :
    unitOf 0 (0x1234 : Sample) = unitOf 0 0x1FFF ∧ unitOf 3 (abs16 0xFFFB) = unitOf 3 (abs16 0x0015) ∧
    (0xD2AA1CC0 : Data).extractLsb' (25 - 7 * (0 : Fin 4).val) 7 =
      (0xD2000000 : Data).extractLsb' (25 - 7 * (0 : Fin 4).val) 7 := by decide

/-- Too short, and an element that is no bit. -/
theorem witness_ListEncode :
    ([1, 0, 1] : List Nat).length ≠ 4 ∧ (∃ b ∈ ([1, 0, 2, 1] : List Nat), 2 ≤ b) ∧ (1 < 2 ∧ 0 < 2) := by decide

theorem witness_ListDecode :
    ([1, 0, 1] : List Nat).length ≠ 7 ∧ (∃ b ∈ ([1, 0, 2, 1, 0, 0, 0] : List Nat), 2 ≤ b) ∧
    ([1, 0, 1, 1, 0, 0, 1] : List Nat).length = 7 ∧ ∀ b ∈ ([1, 0, 1, 1, 0, 0, 1] : List Nat), b < 2 := by decide

theorem witness_ListPack :
    1 < (([1, 0, 1, 1, 0, 0, 1, 1, 1] : List Nat).length + 7) / 8 ∧ 32 ≤ 32 ∧
    0 ∈ (ListLevel.bytesOf (pack 9 ((0x1FF : BitVec 9).setWidth 32))).drop ((9 + 7) / 8) := by decide

/-- Just enough bytes for nine bits, and one too few. -/
theorem witness_ListUnpack :
    (9 + 7) / 8 ≤ ([0xFF, 0x80] : List Nat).length ∧ ([0xFF] : List Nat).length < (9 + 7) / 8 ∧
    (32 ≤ 32 ∧ (32 + 7) / 8 ≤ 4) := by decide

theorem witness_AssemblerReadsBitListsAndText :
    ([true] : List Bool).length ≠ 4 ∧ ([true] : List Bool).length ≠ 7 ∧ (List.replicate 32 true).length ≤ 32 := by
  decide

end Sys2Proof.Tests
end

section
/-! SUPPORT. The response of a step is `Respond` of its request (10_state.md R19): the decoder and the
instructions together answer what `answer` writes from the error table, and every step keeps the run
invariant. -/

namespace Sys2Proof.Machine

/-! ### The answered state, field by field -/

section Answered
variable (s : State) (w : ReqWord) (rest : List ReqWord) (e : ErrCode) (d : Data)

@[simp] theorem answered_rspErr : (s.answered w rest e d).rspErr = e.code := rfl
@[simp] theorem answered_rspDout : (s.answered w rest e d).rspDout = d := rfl
@[simp] theorem answered_pending : (s.answered w rest e d).pending = rest := rfl
@[simp] theorem answered_observed :
    (s.answered w rest e d).observed = s.observed ++ [(w, rspWord e.code d)] := rfl
@[simp] theorem answered_reqPort : (s.answered w rest e d).reqPort = w := reqWord_fields w
@[simp] theorem answered_rspPort : (s.answered w rest e d).rspPort = rspWord e.code d := rfl

/-- Presenting, responding and recording together are the answered state. -/
theorem record_respond_present : record (respond e d (s.present w rest)) = s.answered w rest e d := by
  simp [record, respond, State.present, State.answered, State.reqPort, State.rspPort, reqWord_fields]

end Answered

/-! ### `answer`, by what the decoder finds -/

theorem answer_reserved {op : Op} (h : opNameOf op = none) (len : Len) (din : Data) :
    answer op len din = (.reservedOp, 0) := by
  unfold answer
  split
  case h_9 => rfl
  all_goals exact absurd h (by decide)

theorem answer_not_fits {o : OpName} {len : Len} {din : Data} (h : ¬ Fits o len din) :
    answer o.code len din = (.invalidInput, 0) := by
  cases o <;> exact if_neg h

/-- The result of a request whose operand fields fit, by operation (40_block_coder.md R58 and R67,
41_split_pack.md R73, R75 and R79, 42_frame.md R82, R83 and R86). -/
def fitsResult (o : OpName) (len : Len) (din : Data) : Data :=
  match o with
  | .enc => (enc7 (din.setWidth 4)).setWidth 32
  | .dec => decResult (dec7 (din.setWidth 7))
  | .pack => pack len.toNat (seqOperand len.toNat din)
  | .unpack => unpack len.toNat din
  | .frame => encodeSample16 (din.setWidth 16)
  | .deframe => deframeResult din
  | .frames => encodeSample16 (abs16 (din.setWidth 16))
  | .abs16 => (abs16 (din.setWidth 16)).setWidth 32

theorem answer_fits {o : OpName} {len : Len} {din : Data} (h : Fits o len din) :
    answer o.code len din = (.ok, fitsResult o len din) := by
  cases o <;> exact if_pos h

/-- The instruction read from operand fields that fit answers OK with the operation's result; only PACK and
UNPACK check their count again. -/
theorem exec_operandsOf_fits {o : OpName} {len : Len} {din : Data} (h : Fits o len din) (s : State) :
    exec (operandsOf o (reqWord o.code len din)) s = .next (respond .ok (fitsResult o len din) s) := by
  rw [operandsOf_reqWord]
  cases o with
  | pack => exact if_pos ((le_packMax_iff len).mpr h)
  | unpack => exact if_pos ((le_packMax_iff len).mpr h)
  | enc => rfl
  | dec => rfl
  | frame => rfl
  | deframe => rfl
  | frames => rfl
  | abs16 => rfl

/-! ### A step with a request -/

section Step
variable {s : State} {w : ReqWord} {rest : List ReqWord}

theorem step_of_decode_error (hp : s.pending = w :: rest) {e : DecodeError} (hd : decode w = .error e) :
    step s = .next (s.answered w rest (errCodeOf e) 0) := by
  simp [step, nextRequest_cons hp, hd, raise_eq, record_respond_present]

theorem step_of_decode_ok (hp : s.pending = w :: rest) {i : Instr} (hd : decode w = .ok i) :
    step s = recordOutcome (exec i (s.present w rest)) := by
  simp [step, nextRequest_cons hp, hd]

/-- A step answers its request with `answer` of the request's fields: a reserved code, an operand check that
fails, or the operation's result (30_encoding.md R49). -/
theorem step_eq_answered (hp : s.pending = w :: rest) :
    step s = .next (s.answered w rest (answer (opField w) (lenField w) (dinField w)).1
      (answer (opField w) (lenField w) (dinField w)).2) := by
  have hw := reqWord_fields w
  generalize opField w = op, lenField w = len, dinField w = din at hw ⊢
  subst hw
  cases ho : opNameOf op with
  | none => rw [step_of_decode_error hp (decode_reserved ho len din), answer_reserved ho, errCodeOf]
  | some o =>
    obtain rfl := opNameOf_eq_some.mp ho
    by_cases hf : Fits o len din
    · rw [step_of_decode_ok hp (decode_fits hf), exec_operandsOf_fits hf, recordOutcome,
        record_respond_present, answer_fits hf]
    · rw [step_of_decode_error hp (decode_not_fits hf), answer_not_fits hf, errCodeOf]

end Step

/-! ### The run invariant -/

/-- Answering a request with `Respond` of it keeps the run invariant. -/
theorem answered_inv {s : State} (hs : s.Inv) {w : ReqWord} (rest : List ReqWord) {e : ErrCode} {d : Data}
    (hr : rspWord e.code d = respondTo w) : (s.answered w rest e d).Inv where
  ports := by simp [hr]
  pairs p hp := by
    rw [answered_observed, List.mem_append, List.mem_singleton] at hp
    rcases hp with hp | rfl
    · exact hs.pairs p hp
    · exact hr

theorem step_keeps_inv {s t : State} (hs : s.Inv) (h : step s = .next t) : t.Inv := by
  cases hp : s.pending with
  | nil => simp [step, nextRequest_nil hp] at h
  | cons w rest =>
    rw [step_eq_answered hp] at h
    obtain rfl := Host.Outcome.next.inj h
    exact answered_inv hs rest rfl

end Sys2Proof.Machine
end

section
/-! PROOFS. The statements about the state and a step of 10_state.md. -/

namespace Sys2Proof.Proofs

open Sys2Proof Sys2Proof.Machine

/-- Settles O14: a step leaves the answered state of its request, which keeps both parts of the invariant. -/
theorem runInvariantKept : Obligations.RunInvariantKept :=
  fun _ _ hs h => step_keeps_inv hs h

/-- Settles O8: the step leaves the answered state, whose response port is `Respond` by definition. -/
theorem stepAnswersRespond : Obligations.StepAnswersRespond :=
  ⟨fun _ _ _ hp => ⟨_, step_eq_answered hp, rfl⟩, fun _ _ _ hp => step_eq_answered hp⟩

/-- Settles O12: both steps leave the answered state of the one request. -/
theorem responseForgetsHistory : Obligations.ResponseForgetsHistory :=
  fun _ _ _ _ _ hp hp' =>
    ⟨_, _, step_eq_answered hp, step_eq_answered hp', answered_reqPort .., answered_reqPort .., rfl, rfl⟩

/-- Settles O13: operation code 0 is reserved, and nothing has been observed. -/
theorem runInvariantAtReset : Obligations.RunInvariantAtReset where
  ports := by decide
  pairs _ hp := absurd hp List.not_mem_nil

end Sys2Proof.Proofs
end

section
/-! SUPPORT. The places of bits and bytes in frames and byte sequences, what ignores padding, and what a whole
run observes. -/

namespace Sys2Proof.Machine

/-! ### What a run observes -/

/-- A run whose first step answers goes on from the next state. -/
theorem run_succ_of_step {s t : State} (h : step s = .next t) (k : Nat) :
    Host.Core.run Sys2Proof.core (k + 1) s = Host.Core.run Sys2Proof.core k t := by
  have hstep : Sys2Proof.core.step s = .next t := h
  simp only [Host.Core.run, hstep]

/-- A step with a request joins the pair of the request and `Respond` of it to the observation. -/
theorem step_observes_pair {s : State} {w : ReqWord} {rest : List ReqWord} (hp : s.pending = w :: rest) :
    ∃ t, step s = .next t ∧ t.pending = rest ∧ t.observed = s.observed ++ [(w, respondTo w)] :=
  ⟨_, step_eq_answered hp, rfl, rfl⟩

/-- A run with one step for each request observes each request with `Respond` of it, in order of issue, and no
request is left (70_reset_and_hazards.md R115). -/
theorem run_observes_pairs (s : State) :
    ∃ t : State, Host.Core.run Sys2Proof.core s.pending.length s = .next t ∧
      t.observed = s.observed ++ s.pending.map (fun w => (w, respondTo w)) ∧ t.pending = [] := by
  generalize hl : s.pending = l
  induction l generalizing s with
  | nil => exact ⟨s, rfl, by simp, hl⟩
  | cons w rest ih =>
    obtain ⟨u, hstep, hu, hpair⟩ := step_observes_pair hl
    obtain ⟨t, hrun, hobs, hnil⟩ := ih u hu
    refine ⟨t, (run_succ_of_step hstep _).trans hrun, ?_, hnil⟩
    rw [hobs, hpair, List.append_assoc, List.singleton_append, List.map_cons]

/-! ### Padding -/

/-- An UNPACK with a count up to 32 answers OK with the unpacked bits (41_split_pack.md R75). -/
theorem exec_unpack_of_le {n : Len} (hn : n.toNat ≤ 32) (w : Data) (s : State) :
    exec (.unpack n w) s = .next (respond .ok (unpack n.toNat w) s) :=
  if_pos ((le_packMax_iff n).mpr hn)

/-- Every DEFRAME answers OK with the decoded frame (42_frame.md R86). -/
theorem exec_deframe (w : Data) (s : State) :
    exec (.deframe w) s = .next (respond .ok (deframeResult w) s) := rfl

/-- Unpacking `n` bits reads only the first `n` bits of the operand. -/
theorem unpack_congr {n : Nat} (hn : n ≤ 32) {w w' : Data}
    (h : ∀ j < n, w.getLsbD (31 - j) = w'.getLsbD (31 - j)) : unpack n w = unpack n w' := by
  apply BitVec.eq_of_getLsbD_eq
  intro i _
  rw [getLsbD_unpack n hn, getLsbD_unpack n hn]
  by_cases hi : i < n
  · have hj := h (n - 1 - i) (by omega)
    rw [show 31 - (n - 1 - i) = 32 - n + i by omega] at hj
    rw [hj]
  · simp [hi]

/-- The stream of a frame is all of its word above the padding. -/
theorem frameStream_append (S : BitStream) (p : BitVec 4) : frameStream (S ++ p) = S := by
  apply BitVec.eq_of_getLsbD_eq
  intro i hi
  rw [frameStream, BitVec.getLsbD_setWidth, getLsbD_unpack _ (by omega), BitVec.getLsbD_append]
  simp [hi]

/-- The frame decoder reads only the stream of the frame. -/
theorem deframeResult_congr {w w' : Data} (h : frameStream w = frameStream w') :
    deframeResult w = deframeResult w' := by
  simp only [deframeResult, frameValue, laneOf, h]

/-! ### Bit and byte order -/

/-- A frame's stream fills its word from the top (20_memory.md R30, R31). -/
theorem getLsbD_encodeSample16 (v : Sample) {j : Nat} (hj : j < 28) :
    (encodeSample16 v).getLsbD (31 - j) = (streamOf v).getLsbD (27 - j) := by
  rw [encodeSample16, getLsbD_pack 28 (by omega), BitVec.getLsbD_setWidth]
  simp [show 4 ≤ 31 - j by omega, show 31 - j < 32 by omega, show 31 - j - 4 = 27 - j by omega,
    show 27 - j < 32 by omega]

/-- The four padding bits of a frame are 0. -/
theorem extractLsb'_padding_encodeSample16 (v : Sample) : (encodeSample16 v).extractLsb' 0 4 = 0 := by
  apply BitVec.eq_of_getLsbD_eq
  intro i hi
  rw [BitVec.getLsbD_extractLsb', encodeSample16, getLsbD_pack 28 (by omega)]
  simp [show ¬ 4 ≤ i by omega]

/-- Position `p` of unit `k`'s codeword is stream element `7k + (p - 1)` (20_memory.md R30). -/
theorem pos_codewordOf (k : Fin 4) (S : BitStream) {p : Nat} (h1 : 1 ≤ p) (h7 : p ≤ 7) :
    pos (codewordOf k S) p = S.getLsbD (27 - (7 * k.val + (p - 1))) := by
  rw [pos, codewordOf, BitVec.getLsbD_extractLsb', decide_eq_true (by omega), Bool.true_and]
  congr 1
  omega

/-- Bit `7 - t` of byte `i` is element `8i + t` of the byte sequence (20_memory.md R31, R32). -/
theorem getLsbD_byteOf (i : Fin 4) (w : Data) {t : Nat} (ht : t < 8) :
    (byteOf i w).getLsbD (7 - t) = w.getLsbD (31 - (8 * i.val + t)) := by
  rw [byteOf, BitVec.getLsbD_extractLsb', decide_eq_true (by omega), Bool.true_and]
  congr 1
  omega

/-- A word is its four bytes, byte 0 at the top (20_memory.md R32). -/
theorem byteOf_append (w : Data) : byteOf 0 w ++ byteOf 1 w ++ byteOf 2 w ++ byteOf 3 w = w := by
  have h01 : byteOf 0 w ++ byteOf 1 w = w.extractLsb' 16 16 :=
    BitVec.extractLsb'_append_extractLsb'_eq_extractLsb' rfl
  have h012 : byteOf 0 w ++ byteOf 1 w ++ byteOf 2 w = w.extractLsb' 8 24 := by
    rw [h01]; exact BitVec.extractLsb'_append_extractLsb'_eq_extractLsb' rfl
  rw [h012]
  exact (BitVec.extractLsb'_append_extractLsb'_eq_extractLsb' rfl).trans BitVec.extractLsb'_eq_self

end Sys2Proof.Machine
end

section
/-! PROOFS. The statements about order, side effects, padding and byte placement of 20_memory.md. -/

namespace Sys2Proof.Proofs

open Sys2Proof Sys2Proof.Machine

/-- Settles O10: each run observes the map of `Respond` over its own requests, and a permutation of the requests
permutes that map. -/
theorem requestOrderIsImmaterial : Obligations.RequestOrderIsImmaterial := by
  intro s s' hs hs' hperm
  obtain ⟨t, hrun, hobs, -⟩ := run_observes_pairs s
  obtain ⟨t', hrun', hobs', -⟩ := run_observes_pairs s'
  rw [hs, List.nil_append] at hobs
  rw [hs', List.nil_append] at hobs'
  refine ⟨t, t', hrun, hrun', ?_, ?_, ?_⟩
  · rw [hobs, hobs']
    exact hperm.map _
  · rw [hobs]
    exact List.forall_mem_map.mpr fun _ _ => rfl
  · rw [hobs']
    exact List.forall_mem_map.mpr fun _ _ => rfl

/-- Settles O11: both steps leave the answered state of the one request. -/
theorem repeatedRequestGetsSameResponse : Obligations.RepeatedRequestGetsSameResponse :=
  fun _ _ _ hp => ⟨_, _, step_eq_answered hp, step_eq_answered (answered_pending ..), rfl, rfl⟩

/-- Settles O22: an instruction does nothing but drive the response ports. -/
theorem instructionsDriveOnlyTheResponsePorts : Obligations.InstructionsDriveOnlyTheResponsePorts := by
  intro i s t h
  obtain ⟨e, d, hexec⟩ := exec_responds i
  obtain rfl := Host.Outcome.next.inj ((hexec s).symm.trans h)
  exact ⟨rfl, rfl, rfl, rfl, rfl⟩

/-- Settles O36: UNPACK reads the first `n` bits of its operand, and DEFRAME its frame's stream. -/
theorem paddingIsIgnored : Obligations.PaddingIsIgnored := by
  constructor
  · intro n w w' s hn h
    refine ⟨_, exec_unpack_of_le hn w s, ?_, rfl⟩
    rw [exec_unpack_of_le hn, unpack_congr hn h]
  · intro S p p' s
    have hstream : frameStream (S ++ p') = frameStream (S ++ p) :=
      (frameStream_append S p').trans (frameStream_append S p).symm
    refine ⟨_, exec_deframe _ s, ?_, rfl⟩
    rw [exec_deframe, deframeResult_congr hstream]

/-- Settles O47: FRAME's word holds the stream from the top, and the stream's elements are the codewords'
positions in unit order. -/
theorem frameStreamAndByteOrder : Obligations.FrameStreamAndByteOrder := by
  intro v s
  refine ⟨encodeSample16 v, rfl, ?_, ?_, (byteOf_append _).symm, extractLsb'_padding_encodeSample16 v⟩
  · intro k p h1 h7
    rw [getLsbD_encodeSample16 v (by omega), ← pos_codewordOf k _ h1 h7, codewordOf_streamOf, unitOf]
  · intro i t ht hit
    rw [getLsbD_byteOf i _ ht, getLsbD_encodeSample16 v hit]

end Sys2Proof.Proofs
end

section
/-! SUPPORT. The two directions of the round trip of 30_encoding.md R44 to R49: what the decoder answers for
any word, what the encoder writes, and the request as a number. -/

namespace Sys2Proof

/-! ### What the decoder answers for any word -/

/-- The operand fields of an instruction's request fit its operation exactly when the instruction is
well-formed: the must-be-0 fields are 0 by the operands' widths. -/
theorem fits_fields_iff_wf (i : Instr) : Fits i.opName i.lenOf i.dinOf ↔ i.wf = true := by
  cases i with
  | enc n => exact iff_of_true ⟨rfl, Laws.RowMatch.shift_setWidth 4 n⟩ rfl
  | dec cw => exact iff_of_true ⟨rfl, Laws.RowMatch.shift_setWidth 7 cw⟩ rfl
  | pack n din => exact (le_packMax_iff n).symm.trans decide_eq_true_iff.symm
  | unpack n din => exact (le_packMax_iff n).symm.trans decide_eq_true_iff.symm
  | frame v => exact iff_of_true ⟨rfl, Laws.RowMatch.shift_setWidth 16 v⟩ rfl
  | deframe w => exact iff_of_true rfl rfl
  | frames x => exact iff_of_true ⟨rfl, Laws.RowMatch.shift_setWidth 16 x⟩ rfl
  | abs16 x => exact iff_of_true ⟨rfl, Laws.RowMatch.shift_setWidth 16 x⟩ rfl

/-- An operand zero-extended into `din` is read back from it. -/
theorem setWidth_setWidth_self {n : Nat} (hn : n ≤ 32) (x : BitVec n) : (x.setWidth 32).setWidth n = x := by
  rw [BitVec.setWidth_setWidth_of_le x hn, BitVec.setWidth_eq]

/-- The operands read from an instruction's request are its own. -/
theorem operandsOf_encode (i : Instr) : operandsOf i.opName (encode i) = i := by
  rw [encode, operandsOf_reqWord]
  cases i with
  | enc n => exact congrArg Instr.enc (setWidth_setWidth_self (by decide) n)
  | dec cw => exact congrArg Instr.dec (setWidth_setWidth_self (by decide) cw)
  | pack n din => rfl
  | unpack n din => rfl
  | frame v => exact congrArg Instr.frame (setWidth_setWidth_self (by decide) v)
  | deframe w => rfl
  | frames x => exact congrArg Instr.frames (setWidth_setWidth_self (by decide) x)
  | abs16 x => exact congrArg Instr.abs16 (setWidth_setWidth_self (by decide) x)

/-- Operands that fit are written back into the word they were read from. -/
theorem encode_operandsOf {o : OpName} {len : Len} {din : Data} (h : Fits o len din) :
    encode (operandsOf o (reqWord o.code len din)) = reqWord o.code len din := by
  rw [operandsOf_reqWord]
  cases o with
  | enc => exact reqWord_inj.mpr ⟨rfl, h.1.symm, setWidth_setWidth_of_high_zero 4 din h.2⟩
  | dec => exact reqWord_inj.mpr ⟨rfl, h.1.symm, setWidth_setWidth_of_high_zero 7 din h.2⟩
  | pack => rfl
  | unpack => rfl
  | frame => exact reqWord_inj.mpr ⟨rfl, h.1.symm, setWidth_setWidth_of_high_zero 16 din h.2⟩
  | deframe => exact reqWord_inj.mpr ⟨rfl, h.symm, rfl⟩
  | frames => exact reqWord_inj.mpr ⟨rfl, h.1.symm, setWidth_setWidth_of_high_zero 16 din h.2⟩
  | abs16 => exact reqWord_inj.mpr ⟨rfl, h.1.symm, setWidth_setWidth_of_high_zero 16 din h.2⟩

/-- A well-formed instruction is decoded from its request. -/
theorem decode_encode {i : Instr} (h : i.wf = true) : decode (encode i) = .ok i := by
  have hd := decode_fits ((fits_fields_iff_wf i).mpr h)
  rwa [← encode, operandsOf_encode] at hd

/-- All that the decoder can answer: a reserved code is refused, and the word of an assigned operation is
refused or read by whether its operand fields fit (30_encoding.md R49). -/
theorem decode_cases (w : ReqWord) :
    (opNameOf (opField w) = none ∧ decode w = .error (.reservedOp (opField w))) ∨
      ∃ o : OpName, opField w = o.code ∧
        (Fits o (lenField w) (dinField w) ∧ decode w = .ok (operandsOf o w) ∨
          ¬ Fits o (lenField w) (dinField w) ∧ decode w = .error (.invalidInput o)) := by
  have hw := reqWord_fields w
  generalize opField w = op, lenField w = len, dinField w = din at hw ⊢
  subst hw
  cases ho : opNameOf op with
  | none => exact .inl ⟨rfl, decode_reserved ho len din⟩
  | some o =>
    obtain rfl := opNameOf_eq_some.mp ho
    by_cases hf : Fits o len din
    · exact .inr ⟨o, rfl, .inl ⟨hf, decode_fits hf⟩⟩
    · exact .inr ⟨o, rfl, .inr ⟨hf, decode_not_fits hf⟩⟩

/-- A word decodes exactly when its code is assigned and its operand fields fit. -/
theorem decode_ok_iff_fits (w : ReqWord) :
    (∃ i, decode w = .ok i) ↔ ∃ o : OpName, opField w = o.code ∧ Fits o (lenField w) (dinField w) := by
  constructor
  · rintro ⟨i, hi⟩
    rcases decode_cases w with ⟨-, hd⟩ | ⟨o, ho, ⟨hf, -⟩ | ⟨-, hd⟩⟩
    · cases hi.symm.trans hd
    · exact ⟨o, ho, hf⟩
    · cases hi.symm.trans hd
  · rintro ⟨o, ho, hf⟩
    refine ⟨operandsOf o w, ?_⟩
    rw [← reqWord_fields w, ho]
    exact decode_fits hf

/-- A word that decodes is the request of what it decodes to. -/
theorem encode_of_decode {w : ReqWord} {i : Instr} (h : decode w = .ok i) : encode i = w := by
  obtain ⟨o, ho, hf⟩ := (decode_ok_iff_fits w).mp ⟨i, h⟩
  rw [← reqWord_fields w, ho] at h ⊢
  obtain rfl : operandsOf o _ = i := Except.ok.inj ((decode_fits hf).symm.trans h)
  exact encode_operandsOf hf

theorem OpName.code_injective : Function.Injective OpName.code := fun a b h =>
  Option.some.inj (by rw [← opNameOf_code a, h, opNameOf_code])

/-- What the decoder returns is well-formed: only a well-formed instruction's request has fields that fit. -/
theorem wf_of_decode {w : ReqWord} {i : Instr} (h : decode w = .ok i) : i.wf = true := by
  obtain ⟨o, ho, hf⟩ := (decode_ok_iff_fits w).mp ⟨i, h⟩
  obtain rfl := encode_of_decode h
  simp only [encode, opField_reqWord, lenField_reqWord, dinField_reqWord] at ho hf
  obtain rfl := OpName.code_injective ho
  exact (fits_fields_iff_wf i).mp hf

/-- The row check and the count check of 30_encoding.md R49 say that the operand fields fit. -/
theorem fits_iff_mask_and_count {o : OpName} {w : ReqWord} (ho : opField w = o.code) :
    Fits o (lenField w) (dinField w) ↔
      w &&& o.mask = o.fixed ∧ (o = .pack ∨ o = .unpack → (lenField w).toNat ≤ 32) := by
  rw [← checks_iff_fits, ← ho, reqWord_fields]
  cases o <;> simp [OpName.takesLen, packMax_lt_iff]

/-- A word that matches an operation's row has the operation's code. -/
theorem opField_of_mask {o : OpName} {w : ReqWord} (h : w &&& o.mask = o.fixed) : opField w = o.code := by
  rw [← reqWord_fields w] at h
  exact ((fixed_iff ..).mp h).1

/-! ### The request as a number (30_encoding.md R44) -/

theorem toNat_reqWord (op : Op) (len : Len) (din : Data) :
    (reqWord op len din).toNat = op.toNat * 2 ^ 38 + len.toNat * 2 ^ 32 + din.toNat := by
  have h1 : (reqWord op len din).toNat = (op ++ len).toNat <<< 32 ||| din.toNat := BitVec.toNat_append _ _
  rw [h1, ← Nat.shiftLeft_add_eq_or_of_lt din.isLt, BitVec.toNat_append,
    ← Nat.shiftLeft_add_eq_or_of_lt len.isLt, Nat.shiftLeft_eq, Nat.shiftLeft_eq]
  omega

theorem reqWord_eq_ofNat (op : Op) (len : Len) (din : Data) :
    reqWord op len din = BitVec.ofNat 42 (op.toNat * 2 ^ 38 + len.toNat * 2 ^ 32 + din.toNat) := by
  rw [← toNat_reqWord, BitVec.ofNat_toNat, BitVec.setWidth_eq]

end Sys2Proof

namespace Sys2Proof.Machine

/-- The codes with no operation are the reserved codes (30_encoding.md R47, R50). -/
theorem reserved_iff (op : Op) : Reserved op ↔ opNameOf op = none := by
  rw [opNameOf_eq_none, Reserved, and_iff_left (show op.toNat ≤ 0xF by omega)]

/-- What `answer` gives a request word: RESERVED_OP for a reserved code, and the operation's result or
INVALID_INPUT by whether the word decodes; never a result beside an error (30_encoding.md R53). -/
theorem answer_cases (w : ReqWord) :
    let a := answer (opField w) (lenField w) (dinField w)
    (opNameOf (opField w) = none ∧ decode w = .error (.reservedOp (opField w)) ∧ a = (.reservedOp, 0)) ∨
      ∃ o : OpName, opNameOf (opField w) = some o ∧
        (decode w = .ok (operandsOf o w) ∧ a = (.ok, fitsResult o (lenField w) (dinField w)) ∨
          decode w = .error (.invalidInput o) ∧ a = (.invalidInput, 0)) := by
  rcases decode_cases w with ⟨hn, hd⟩ | ⟨o, ho, ⟨hf, hd⟩ | ⟨hf, hd⟩⟩
  · exact .inl ⟨hn, hd, answer_reserved hn _ _⟩
  · exact .inr ⟨o, opNameOf_eq_some.mpr ho, .inl ⟨hd, by simp only [ho, answer_fits hf]⟩⟩
  · exact .inr ⟨o, opNameOf_eq_some.mpr ho, .inr ⟨hd, by simp only [ho, answer_not_fits hf]⟩⟩

end Sys2Proof.Machine
end

section
/-! PROOFS. The statements about the request format, the decoder and the encoder of 30_encoding.md. -/

namespace Sys2Proof.Proofs

open Sys2Proof Sys2Proof.Machine

/-- Settles O1: the fields of a well-formed instruction's request fit, and its operands are read back. -/
theorem decodeInvertsEncode : Obligations.DecodeInvertsEncode :=
  fun _ h => decode_encode h

/-- Settles O2: a word decodes only when its operand fields fit, and then they are written back unchanged. -/
theorem encodeInvertsDecode : Obligations.EncodeInvertsDecode :=
  fun _ _ h => ⟨wf_of_decode h, encode_of_decode h⟩

/-- Settles O3: a word decodes when its operand fields fit, which is the row check and the count check. -/
theorem legalRequestsDecode : Obligations.LegalRequestsDecode := fun w =>
  (decode_ok_iff_fits w).trans <| exists_congr fun _ => and_congr_right fits_iff_mask_and_count

/-- Settles O4: each row fixes the operation code, and no two operations share one. -/
theorem noRequestMatchesTwoRows : Obligations.NoRequestMatchesTwoRows := fun _ _ _ ha hb =>
  OpName.code_injective ((opField_of_mask ha).symm.trans (opField_of_mask hb))

/-- Settles O5: appending fields is adding their shifted numbers, and a word is its three fields. -/
theorem requestWordIsItsNumber : Obligations.RequestWordIsItsNumber :=
  ⟨toNat_reqWord, fun w => ⟨rfl, rfl, rfl, reqWord_fields w⟩, fun n din => toNat_reqWord 3 n din, by decide⟩

/-- Settles O21: a step answers with `answer`, whose code says what the decoder found. -/
theorem errorCodesOfResponses : Obligations.ErrorCodesOfResponses := by
  intro s w rest hp
  refine ⟨_, step_eq_answered hp, ?_⟩
  rw [reserved_iff, answered_rspErr, answered_rspDout]
  rcases answer_cases w with ⟨hc, hd, ha⟩ | ⟨o, hc, ⟨hd, ha⟩ | ⟨hd, ha⟩⟩ <;>
    simp [ha, hc, hd, ErrCode.code]

/-- Settles O6: the decoder run on each word. -/
theorem wordsOfEachOperationDecode : Obligations.WordsOfEachOperationDecode :=
  ⟨rfl, rfl, rfl, rfl, rfl, rfl, rfl, rfl, rfl, rfl⟩

/-- Settles O7: the step puts the request on the ports, where the decoder reads it. -/
theorem stepRunsDecodedInstruction : Obligations.StepRunsDecodedInstruction := by
  intro s w rest hp
  refine ⟨fun i hi => step_of_decode_ok hp hi, fun e he => ?_⟩
  rw [step_of_decode_error hp he, raise_eq, record_respond_present]

end Sys2Proof.Proofs
end

section
/-! SUPPORT. What the assembler of 30_encoding.md R54 makes of an operand, and the request a line of one
instruction stands for. -/

namespace Sys2Proof

/-! ### Request words as numbers, from operands that fit their fields -/

theorem reqWord_setWidth_eq_ofNat (op : Op) {width : Nat} (hw : width ≤ 32) (x : BitVec width) :
    reqWord op 0 (x.setWidth 32) = BitVec.ofNat 42 (op.toNat * 2 ^ 38 + x.toNat) := by
  simp [reqWord_eq_ofNat, BitVec.toNat_setWidth_of_le hw]

theorem encode_deframe (w : Data) : encode (.deframe w) = reqWord 6 0 (w.setWidth 32) :=
  congrArg (reqWord 6 0) (BitVec.setWidth_eq w).symm

theorem reqWord_ofNat_eq_ofNat (op : Op) {n b : Nat} (hn : n ≤ 32) (hb : b < 2 ^ 32) :
    reqWord op (BitVec.ofNat 6 n) (BitVec.ofNat 32 b) =
      BitVec.ofNat 42 (op.toNat * 2 ^ 38 + n * 2 ^ 32 + b) := by
  rw [reqWord_eq_ofNat, BitVec.toNat_ofNat, BitVec.toNat_ofNat, Nat.mod_eq_of_lt (a := n) (by omega),
    Nat.mod_eq_of_lt hb]

end Sys2Proof

namespace Sys2Proof.Machine.Asm

/-! ### What a bit list stands for -/

/-- The bits read so far count for more than all the bits still to come. -/
theorem foldl_bits_lt (l : List Bool) (a : Nat) :
    l.foldl (fun a b => 2 * a + b.toNat) a < (a + 1) * 2 ^ l.length := by
  induction l generalizing a with
  | nil => simp
  | cons b l ih =>
    calc (b :: l).foldl (fun a b => 2 * a + b.toNat) a
        < (2 * a + b.toNat + 1) * 2 ^ l.length := ih _
      _ ≤ (2 * (a + 1)) * 2 ^ l.length := Nat.mul_le_mul_right _ (by have := b.toNat_le; omega)
      _ = (a + 1) * 2 ^ (b :: l).length := by rw [List.length_cons, Nat.pow_succ']; ac_rfl

theorem bitListValue_lt (l : List Bool) : bitListValue l < 2 ^ l.length := by
  simpa [bitListValue] using foldl_bits_lt l 0

/-- Element 0 of a bit list is the most significant bit (10_state.md R20). -/
theorem ofNat_bitListValue_four (d3 d2 d1 d0 : Bool) :
    BitVec.ofNat 4 (bitListValue [d3, d2, d1, d0]) =
      BitVec.ofBool d3 ++ BitVec.ofBool d2 ++ BitVec.ofBool d1 ++ BitVec.ofBool d0 := by
  revert d3 d2 d1 d0; decide

/-! ### Operands -/

theorem numberBelow_num (width n : Nat) :
    numberBelow width (.num n) = if n < 2 ^ width then .ok (BitVec.ofNat width n) else .error .outOfRange := by
  simp [numberBelow]

theorem bitCount_num (n : Nat) :
    bitCount (.num n) = if n ≤ 32 then .ok (BitVec.ofNat 6 n) else .error .outOfRange := by
  simp [bitCount]

theorem packOperands_num {n : Nat} (hn : n ≤ 32) (b : Nat) :
    packOperands (BitVec.ofNat 6 n) (.num b) =
      if b < 2 ^ n then .ok (.pack (BitVec.ofNat 6 n) (BitVec.ofNat 32 b)) else .error .outOfRange := by
  simp [packOperands, Nat.mod_eq_of_lt (show n < 64 by omega)]

theorem numberOrBits_num (width : Nat) (v : Int) : numberOrBits width (.num v) = numberBelow width (.num v) := rfl

theorem numberOrBits_bits_four (d3 d2 d1 d0 : Bool) : numberOrBits 4 (.bits [d3, d2, d1, d0]) =
    .ok (BitVec.ofBool d3 ++ BitVec.ofBool d2 ++ BitVec.ofBool d1 ++ BitVec.ofBool d0) :=
  congrArg Except.ok (ofNat_bitListValue_four d3 d2 d1 d0)

theorem numberOrBits_bits_of_ne {width : Nat} {l : List Bool} (h : l.length ≠ width) :
    numberOrBits width (.bits l) = .error .bitListLength :=
  if_neg h

theorem packBitList_bits_of_le {l : List Bool} (h : l.length ≤ 32) :
    packBitList (.bits l) = .ok (.pack (BitVec.ofNat 6 l.length) (BitVec.ofNat 32 (bitListValue l))) :=
  if_pos h

/-! ### Lines of one instruction -/

theorem map_ite_ok {α β : Type} {p : Prop} [Decidable p] {a : α} {e : AsmError} (f : α → β) :
    (if p then .ok a else .error e : Except AsmError α).map f = if p then .ok (f a) else .error e := by
  split <;> rfl

/-- The request words of a line of one instruction: what `assemble` makes of every mnemonic but `.req` and
`SELFTEST`. -/
def requestOf (i : Except AsmError Instr) : Except AsmError (List ReqWord) := i.map fun i => [encode i]

section Assemble
variable (o b : Operand)

theorem assemble_enc : assemble ⟨"ENC".toList, [o]⟩ = requestOf ((numberOrBits 4 o).map .enc) := rfl
theorem assemble_dec : assemble ⟨"DEC".toList, [o]⟩ = requestOf ((numberOrBits 7 o).map .dec) := rfl
theorem assemble_pack_bits : assemble ⟨"PACK".toList, [o]⟩ = requestOf (packBitList o) := rfl
theorem assemble_pack :
    assemble ⟨"PACK".toList, [o, b]⟩ = requestOf ((bitCount o).bind fun n => packOperands n b) := rfl
theorem assemble_unpack : assemble ⟨"UNPACK".toList, [o, b]⟩ =
    requestOf ((bitCount o).bind fun n => (numberBelow 32 b).map (.unpack n)) := rfl
theorem assemble_frame : assemble ⟨"FRAME".toList, [o]⟩ = requestOf ((numberBelow 16 o).map .frame) := rfl
theorem assemble_deframe : assemble ⟨"DEFRAME".toList, [o]⟩ = requestOf ((numberBelow 32 o).map .deframe) := rfl
theorem assemble_frames : assemble ⟨"FRAMES".toList, [o]⟩ = requestOf ((sample16 o).map .frames) := rfl
theorem assemble_abs16 : assemble ⟨"ABS16".toList, [o]⟩ = requestOf ((sample16 o).map .abs16) := rfl
theorem assemble_req : assemble ⟨".req".toList, [o]⟩ = (numberBelow 42 o).map fun w => [w] := rfl

end Assemble

theorem requestOf_ok (i : Instr) : requestOf (.ok i) = .ok [encode i] := rfl

theorem requestOf_map_error {α : Type} (e : AsmError) (f : α → Instr) :
    requestOf ((Except.error e).map f) = .error e := rfl

theorem requestOf_ite {p : Prop} [Decidable p] {i : Instr} {e : AsmError} {w : ReqWord} (h : p → encode i = w) :
    requestOf (if p then .ok i else .error e) = if p then .ok [w] else .error e :=
  (map_ite_ok _).trans (ite_congr rfl (fun hp => by rw [h hp]) fun _ => rfl)

/-- A line whose one operand is a number below `2 ^ width`. -/
theorem requestOf_numberBelow {width : Nat} (hw : width ≤ 32) {f : BitVec width → Instr} {op : Op}
    (hf : ∀ x, encode (f x) = reqWord op 0 (x.setWidth 32)) (n : Nat) :
    requestOf ((numberBelow width (.num n)).map f) =
      if n < 2 ^ width then .ok [BitVec.ofNat 42 (op.toNat * 2 ^ 38 + n)] else .error .outOfRange := by
  rw [numberBelow_num, map_ite_ok]
  refine requestOf_ite fun hn => ?_
  rw [hf, reqWord_setWidth_eq_ofNat op hw, BitVec.toNat_ofNat, Nat.mod_eq_of_lt hn]

/-- A line whose one operand is a sample, a negative one taken modulo 2^16. -/
theorem requestOf_sample16 {f : Sample → Instr} {op : Op} (hf : ∀ x, encode (f x) = reqWord op 0 (x.setWidth 32))
    (x : Int) :
    requestOf ((sample16 (.num x)).map f) =
      if -32768 ≤ x ∧ x ≤ 65535 then .ok [BitVec.ofNat 42 (op.toNat * 2 ^ 38 + (x % 65536).toNat)]
      else .error .outOfRange := by
  rw [sample16, map_ite_ok]
  refine requestOf_ite fun _ => ?_
  rw [hf, reqWord_setWidth_eq_ofNat op (by decide), BitVec.toNat_ofInt]
  rfl

/-- PACK with a count and a number. -/
theorem packLine_num (n b : Nat) :
    ((bitCount (.num n)).bind fun n => packOperands n (.num b)) =
      if n ≤ 32 ∧ b < 2 ^ n then .ok (.pack (BitVec.ofNat 6 n) (BitVec.ofNat 32 b)) else .error .outOfRange := by
  rw [bitCount_num]
  by_cases hn : n ≤ 32
  · simp only [hn, if_true, true_and]
    exact packOperands_num hn b
  · simp only [hn, if_false, false_and]
    rfl

/-- UNPACK with a count and a number. -/
theorem unpackLine_num (n b : Nat) :
    ((bitCount (.num n)).bind fun n => (numberBelow 32 (.num b)).map (Instr.unpack n)) =
      if n ≤ 32 ∧ b < 2 ^ 32 then .ok (.unpack (BitVec.ofNat 6 n) (BitVec.ofNat 32 b))
      else .error .outOfRange := by
  rw [bitCount_num, numberBelow_num]
  by_cases hn : n ≤ 32
  · simp only [hn, if_true, true_and]
    exact map_ite_ok _
  · simp only [hn, if_false, false_and]
    rfl

end Sys2Proof.Machine.Asm
end

section
/-! PROOFS. The statements about the assembler of 30_encoding.md R54. -/

namespace Sys2Proof.Proofs

open Sys2Proof Sys2Proof.Machine Sys2Proof.Machine.Asm

/-- Settles O58: each mnemonic reads its operands in the rule's ranges and leaves them in the request's fields. -/
theorem assemblerWritesRequestNumbers : Obligations.AssemblerWritesRequestNumbers := by
  refine ⟨?enc, ?dec, ?pack, ?unpack, ?frame, ?deframe, ?frames, ?abs16, ?req⟩
  case enc =>
    intro n
    rw [assemble_enc, numberOrBits_num]
    exact requestOf_numberBelow (by decide) (f := .enc) (op := 1) (fun _ => rfl) n
  case dec =>
    intro n
    rw [assemble_dec, numberOrBits_num]
    exact requestOf_numberBelow (by decide) (f := .dec) (op := 2) (fun _ => rfl) n
  case pack =>
    intro n b
    rw [assemble_pack, packLine_num]
    exact requestOf_ite fun ⟨hn, hb⟩ =>
      reqWord_ofNat_eq_ofNat 3 hn (hb.trans_le (Nat.pow_le_pow_right (by decide) hn))
  case unpack =>
    intro n b
    rw [assemble_unpack, unpackLine_num]
    exact requestOf_ite fun ⟨hn, hb⟩ => reqWord_ofNat_eq_ofNat 4 hn hb
  case frame =>
    intro n
    rw [assemble_frame]
    exact requestOf_numberBelow (by decide) (f := .frame) (op := 5) (fun _ => rfl) n
  case deframe =>
    intro n
    rw [assemble_deframe]
    exact requestOf_numberBelow (by decide) (f := .deframe) (op := 6) encode_deframe n
  case frames =>
    intro x
    rw [assemble_frames]
    exact requestOf_sample16 (f := .frames) (op := 7) (fun _ => rfl) x
  case abs16 =>
    intro x
    rw [assemble_abs16]
    exact requestOf_sample16 (f := .abs16) (op := 8) (fun _ => rfl) x
  case req =>
    intro n
    rw [assemble_req, numberBelow_num, map_ite_ok]

/-- Settles O59: a bit list is read as the number of its bits, and the texts are assembled by evaluation. -/
theorem assemblerReadsBitListsAndText : Obligations.AssemblerReadsBitListsAndText := by
  refine ⟨?encBits, ?encLength, ?decLength, ?packBits, rfl, rfl, rfl, rfl, rfl, rfl, rfl, rfl, rfl⟩
  case encBits =>
    intro d3 d2 d1 d0
    rw [assemble_enc, numberOrBits_bits_four, Except.map, requestOf_ok]
  case encLength =>
    intro l hl
    rw [assemble_enc, numberOrBits_bits_of_ne hl, requestOf_map_error]
  case decLength =>
    intro l hl
    rw [assemble_dec, numberOrBits_bits_of_ne hl, requestOf_map_error]
  case packBits =>
    intro l hl
    rw [assemble_pack_bits, packBitList_bits_of_le hl, requestOf_ok]
    refine congrArg (fun w => Except.ok [w]) (reqWord_ofNat_eq_ofNat 3 hl ?_)
    exact (bitListValue_lt l).trans_le (Nat.pow_le_pow_right (by decide) hl)

end Sys2Proof.Proofs
end

section
/-! SUPPORT. The Block Coder of 40_block_coder.md: the bits of a codeword, `enc7` and `dec7` under exclusive-or,
what the decoder makes of an error pattern, and the placement of the results in `dout`. -/

namespace Sys2Proof.Machine

/-! ### Placement in `dout` -/

theorem zero_append_eq_setWidth (k : Nat) {n : Nat} (x : BitVec n) : 0#k ++ x = x.setWidth (k + n) := by
  apply BitVec.eq_of_toNat_eq
  rw [BitVec.toNat_setWidth_of_le (Nat.le_add_left n k), BitVec.toNat_append]
  simp

/-- Zero-extending two fields side by side is zero-extending the upper one. -/
theorem setWidth_append_right (k : Nat) {m n : Nat} (x : BitVec m) (y : BitVec n) :
    (x ++ y).setWidth (k + n) = x.setWidth k ++ y := by
  rw [BitVec.setWidth_append_of_eq rfl, BitVec.setWidth_eq]

/-- DEC's result with its padding written out (40_block_coder.md R67). -/
theorem decResult_eq (d : Decoded) : decResult d = 0#17 ++ d.cc ++ d.cor ++ d.syn ++ d.n := by
  rw [zero_append_eq_setWidth, decResult]
  refine (setWidth_append_right 28 _ _).trans (congrArg (· ++ d.n) ?_)
  exact (setWidth_append_right 25 _ _).trans (congrArg (· ++ d.syn) (setWidth_append_right 24 _ _))

/-- ENC's result with its padding and its bits written out (40_block_coder.md R56, R58). -/
theorem setWidth_enc7 (n : DataUnit) :
    (enc7 n).setWidth 32 =
      0#25 ++ BitVec.ofBool (n.getLsbD 3 ^^ n.getLsbD 2 ^^ n.getLsbD 0)
        ++ BitVec.ofBool (n.getLsbD 3 ^^ n.getLsbD 1 ^^ n.getLsbD 0) ++ BitVec.ofBool (n.getLsbD 3)
        ++ BitVec.ofBool (n.getLsbD 2 ^^ n.getLsbD 1 ^^ n.getLsbD 0) ++ BitVec.ofBool (n.getLsbD 2)
        ++ BitVec.ofBool (n.getLsbD 1) ++ BitVec.ofBool (n.getLsbD 0) := by
  simp only [zero_append_eq_setWidth, ← setWidth_append_right]
  rfl

/-- ENC answers OK with its operand's codeword (40_block_coder.md R58). -/
theorem exec_enc (n : DataUnit) (s : State) :
    exec (.enc n) s = .next { s with rspErr := 0b00, rspDout := (enc7 n).setWidth 32 } := rfl

/-- DEC answers OK with the four fields of `dec7` (40_block_coder.md R67). -/
theorem exec_dec (cw : Codeword) (s : State) :
    exec (.dec cw) s = .next { s with
      rspErr := 0b00
      rspDout := 0#17 ++ (dec7 cw).cc ++ (dec7 cw).cor ++ (dec7 cw).syn ++ (dec7 cw).n } := by
  rw [← decResult_eq]; rfl

/-! ### The bits of a codeword and of a DataUnit -/

/-- Each position of a codeword (40_block_coder.md R56). -/
@[simp] theorem pos_enc7 (n : DataUnit) :
    pos (enc7 n) 1 = (n.getLsbD 3 ^^ n.getLsbD 2 ^^ n.getLsbD 0) ∧
    pos (enc7 n) 2 = (n.getLsbD 3 ^^ n.getLsbD 1 ^^ n.getLsbD 0) ∧
    pos (enc7 n) 3 = n.getLsbD 3 ∧
    pos (enc7 n) 4 = (n.getLsbD 2 ^^ n.getLsbD 1 ^^ n.getLsbD 0) ∧
    pos (enc7 n) 5 = n.getLsbD 2 ∧ pos (enc7 n) 6 = n.getLsbD 1 ∧ pos (enc7 n) 7 = n.getLsbD 0 := by
  revert n; decide

@[simp] theorem pos_xor (a b : Codeword) (p : Nat) : pos (a ^^^ b) p = (pos a p ^^ pos b p) :=
  BitVec.getLsbD_xor

/-- A DataUnit is its four bits. -/
theorem dataUnit_eq_bits (n : DataUnit) :
    BitVec.ofBool (n.getLsbD 3) ++ BitVec.ofBool (n.getLsbD 2) ++ BitVec.ofBool (n.getLsbD 1)
      ++ BitVec.ofBool (n.getLsbD 0) = n := by
  revert n; decide

/-- The DataUnit stands in its codeword at positions 3, 5, 6 and 7 (40_block_coder.md R62). -/
@[simp] theorem extractUnit_enc7 (n : DataUnit) : extractUnit (enc7 n) = n := by
  simp only [extractUnit, pos_enc7, dataUnit_eq_bits]

theorem enc7_injective : Function.Injective enc7 :=
  Function.LeftInverse.injective extractUnit_enc7

/-! ### The parity checks of a codeword (40_block_coder.md R57) -/

/-- A parity bit beside the three bits it is the parity of. -/
theorem xor_three_twice (a b c : Bool) : (a ^^ b ^^ c ^^ a ^^ b ^^ c) = false := by
  revert a b c; decide

section Checks
variable (n : DataUnit)

@[simp] theorem check1_enc7 : check1 (enc7 n) = false := by simp only [check1, pos_enc7, xor_three_twice]
@[simp] theorem check2_enc7 : check2 (enc7 n) = false := by simp only [check2, pos_enc7, xor_three_twice]
@[simp] theorem check4_enc7 : check4 (enc7 n) = false := by simp only [check4, pos_enc7, xor_three_twice]

@[simp] theorem syndrome_enc7 : syndrome (enc7 n) = 0 := by
  rw [syndrome, check1_enc7, check2_enc7, check4_enc7]; rfl

end Checks

/-- The parity over four positions, taken one after the other. -/
theorem foldl_xor_pos (cw : Codeword) (p q r t : Nat) :
    [p, q, r, t].foldl (fun a p => a ^^ pos cw p) false = (pos cw p ^^ pos cw q ^^ pos cw r ^^ pos cw t) := by
  simp only [List.foldl_cons, List.foldl_nil, Bool.false_xor]

/-! ### The decoder is linear up to the codeword -/

section Xor
variable (a b : Codeword)

theorem check1_xor : check1 (a ^^^ b) = (check1 a ^^ check1 b) := by
  simp only [check1, pos_xor, Bool.xor_assoc, Bool.xor_left_comm]
theorem check2_xor : check2 (a ^^^ b) = (check2 a ^^ check2 b) := by
  simp only [check2, pos_xor, Bool.xor_assoc, Bool.xor_left_comm]
theorem check4_xor : check4 (a ^^^ b) = (check4 a ^^ check4 b) := by
  simp only [check4, pos_xor, Bool.xor_assoc, Bool.xor_left_comm]

theorem syndrome_xor : syndrome (a ^^^ b) = syndrome a ^^^ syndrome b := by
  rw [syndrome, check1_xor, check2_xor, check4_xor]
  simp only [← BitVec.ofBool_xor_ofBool, ← BitVec.xor_append]
  rfl

theorem extractUnit_xor : extractUnit (a ^^^ b) = extractUnit a ^^^ extractUnit b := by
  simp only [extractUnit, pos_xor, ← BitVec.ofBool_xor_ofBool, ← BitVec.xor_append]

theorem correct_xor (syn : Syndrome) : correct (a ^^^ b) syn = a ^^^ correct b syn := by
  unfold correct
  split
  · rfl
  · exact BitVec.xor_assoc ..

end Xor

/-- Decoding a codeword with the errors `e`: the syndrome is that of `e` alone, and what `dec7` leaves of `e` is
left in the codeword and in the DataUnit. -/
theorem dec7_enc7_xor (n : DataUnit) (e : Codeword) :
    dec7 (enc7 n ^^^ e) = { n := n ^^^ (dec7 e).n
                            syn := (dec7 e).syn
                            cor := (dec7 e).cor
                            cc := enc7 n ^^^ (dec7 e).cc } := by
  have hsyn : syndrome (enc7 n ^^^ e) = syndrome e := by
    rw [syndrome_xor, syndrome_enc7]; exact BitVec.zero_xor
  simp only [dec7, hsyn, correct_xor, extractUnit_xor, extractUnit_enc7]

/-! ### Correction -/

theorem corrected_of_ne_zero {syn : Syndrome} (h : syn ≠ 0) : corrected syn = 1 := if_neg h

/-- The syndrome of one error is its position (40_block_coder.md R65). -/
theorem syndrome_posMask {syn : Syndrome} (h : syn ≠ 0) : syndrome (posMask syn.toNat) = syn := by
  revert syn; decide

/-- The corrected codeword passes the parity checks: flipping the position the syndrome names cancels it. -/
theorem syndrome_correct (cw : Codeword) : syndrome (correct cw (syndrome cw)) = 0 := by
  unfold correct
  split
  · assumption
  · next h =>
    rw [syndrome_xor, ← posMask, syndrome_posMask h]
    exact BitVec.xor_self

/-- The words that pass the parity checks are the codewords. -/
theorem enc7_extractUnit {cw : Codeword} (h : syndrome cw = 0) : enc7 (extractUnit cw) = cw := by
  revert cw; decide

/-- The corrected codeword is the codeword of the decoded DataUnit, whatever the errors (40_block_coder.md R66). -/
theorem dec7_cc (cw : Codeword) : (dec7 cw).cc = enc7 (dec7 cw).n :=
  (enc7_extractUnit (syndrome_correct cw)).symm

/-- Decoding a codeword without error (40_block_coder.md R64). -/
theorem dec7_enc7 (n : DataUnit) : dec7 (enc7 n) = { n := n, syn := 0, cor := 0, cc := enc7 n } := by
  simp only [dec7, syndrome_enc7, correct, if_pos, extractUnit_enc7]; rfl

/-- One error alone is taken away (40_block_coder.md R65). -/
theorem dec7_posMask {q : Nat} (h1 : 1 ≤ q) (h7 : q ≤ 7) :
    dec7 (posMask q) = { n := 0, syn := BitVec.ofNat 3 q, cor := 1, cc := 0 } := by
  have h : ∀ q ≤ 7, 1 ≤ q → dec7 (posMask q) = { n := 0, syn := BitVec.ofNat 3 q, cor := 1, cc := 0 } := by
    decide
  exact h q h7 h1

/-- Decoding a codeword with one error (40_block_coder.md R65). -/
theorem dec7_enc7_xor_posMask (n : DataUnit) {q : Nat} (h1 : 1 ≤ q) (h7 : q ≤ 7) :
    dec7 (enc7 n ^^^ posMask q) = { n := n, syn := BitVec.ofNat 3 q, cor := 1, cc := enc7 n } := by
  rw [dec7_enc7_xor, dec7_posMask h1 h7]
  simp

/-! ### Error patterns (40_block_coder.md R66), over the 128 of them -/

/-- The syndrome is the exclusive-or of the positions in error. -/
theorem toNat_syndrome (e : Codeword) : (syndrome e).toNat = (errorPositions e).foldl (fun a p => a ^^^ p) 0 := by
  revert e; decide

theorem syndrome_ne_zero_of_two_errors {e : Codeword} (h : (errorPositions e).length = 2) : syndrome e ≠ 0 := by
  revert e; decide

/-- Three errors cancel exactly when they are a codeword of weight three. -/
theorem syndrome_eq_zero_iff_of_three_errors {e : Codeword} (h : (errorPositions e).length = 3) :
    syndrome e = 0 ↔
      errorPositions e ∈ [[1, 2, 3], [1, 4, 5], [1, 6, 7], [2, 4, 6], [2, 5, 7], [3, 4, 7], [3, 5, 6]] := by
  revert e; decide

/-- Errors leave the DataUnit right exactly when there is one. -/
theorem dec7_n_eq_zero_iff {e : Codeword} (h : e ≠ 0) : (dec7 e).n = 0 ↔ (errorPositions e).length = 1 := by
  revert e; decide

theorem dec7_enc7_xor_n_eq_iff (n : DataUnit) {e : Codeword} (h : e ≠ 0) :
    (dec7 (enc7 n ^^^ e)).n = n ↔ (errorPositions e).length = 1 := by
  rw [dec7_enc7_xor, ← dec7_n_eq_zero_iff h]
  simp

end Sys2Proof.Machine
end

section
/-! SUPPORT. The list-level `encode` and `decode` of 40_block_coder.md, and their agreement with `enc7` and
`dec7`. -/

namespace Sys2Proof.Machine.ListLevel

/-! ### The list of a word's bits -/

theorem length_bitsOf (n : Nat) (w : BitVec n) : (bitsOf n w).length = n := by simp [bitsOf]

theorem getElem_bitsOf {n : Nat} (w : BitVec n) {j : Nat} (hj : j < (bitsOf n w).length) :
    (bitsOf n w)[j] = (w.getLsbD (n - 1 - j)).toNat := by simp [bitsOf]

theorem bitsOf_four (n : DataUnit) :
    bitsOf 4 n = [(n.getLsbD 3).toNat, (n.getLsbD 2).toNat, (n.getLsbD 1).toNat, (n.getLsbD 0).toNat] := rfl

theorem bitsOf_seven (cw : Codeword) :
    bitsOf 7 cw = [(pos cw 1).toNat, (pos cw 2).toNat, (pos cw 3).toNat, (pos cw 4).toNat, (pos cw 5).toNat,
      (pos cw 6).toNat, (pos cw 7).toNat] := rfl

theorem bitsOf_cons {n : Nat} (b : Bool) (w : BitVec n) :
    bitsOf (n + 1) (BitVec.cons b w) = b.toNat :: bitsOf n w := by
  apply List.ext_getElem (by simp only [length_bitsOf, List.length_cons])
  intro j hj _
  rw [length_bitsOf] at hj
  rw [getElem_bitsOf, Nat.add_sub_cancel, BitVec.getLsbD_cons]
  cases j with
  | zero => rw [if_pos (Nat.sub_zero n), List.getElem_cons_zero]
  | succ j =>
    rw [if_neg (by omega), List.getElem_cons_succ, getElem_bitsOf]
    congr 2
    omega

/-- The other bit, as the list level writes it. -/
theorem one_sub_toNat (b : Bool) : 1 - b.toNat = (!b).toNat := by
  cases b <;> rfl

theorem getLsbD_xor_one_shiftLeft {n : Nat} (w : BitVec n) {k : Nat} (hk : k < n) (i : Nat) :
    (w ^^^ 1#n <<< k).getLsbD i = if k = i then !w.getLsbD i else w.getLsbD i := by
  rw [← BitVec.twoPow_eq, BitVec.getLsbD_xor, BitVec.getLsbD_twoPow, decide_eq_true hk, Bool.true_and]
  by_cases h : k = i <;> simp [h]

/-- Flipping the element `j` of a word's list is flipping its bit. -/
theorem set_bitsOf {n : Nat} (w : BitVec n) {j : Nat} (hj : j < n) :
    (bitsOf n w).set j (1 - (bitsOf n w).getD j 0) = bitsOf n (w ^^^ 1#n <<< (n - 1 - j)) := by
  have hflip : 1 - (bitsOf n w).getD j 0 = (!w.getLsbD (n - 1 - j)).toNat := by
    rw [List.getD_eq_getElem _ _ (by rwa [length_bitsOf]), getElem_bitsOf, one_sub_toNat]
  rw [hflip]
  apply List.ext_getElem (by simp only [List.length_set, length_bitsOf])
  intro i _ hi
  rw [length_bitsOf] at hi
  rw [List.getElem_set, getElem_bitsOf, getElem_bitsOf, getLsbD_xor_one_shiftLeft w (by omega)]
  by_cases h : j = i
  · subst h
    simp only [if_true]
  · rw [if_neg h, if_neg (by omega)]

theorem allBits_iff (l : List Nat) : allBits l = true ↔ ∀ b ∈ l, b < 2 := by simp [allBits]

theorem not_allBits {l : List Nat} (h : ∃ b ∈ l, 2 ≤ b) : ¬ allBits l = true := by
  obtain ⟨b, hb, h2⟩ := h
  exact fun hall => Nat.not_lt.mpr h2 ((allBits_iff l).mp hall b hb)

theorem allBits_bitsOf {n : Nat} (w : BitVec n) : allBits (bitsOf n w) = true := by
  rw [allBits_iff, bitsOf, List.forall_mem_map]
  exact fun _ _ => Bool.toNat_lt _

/-- Every list of bits is the list of some word's bits. -/
theorem exists_eq_bitsOf {l : List Nat} (h : ∀ b ∈ l, b < 2) {n : Nat} (hn : l.length = n) :
    ∃ w : BitVec n, l = bitsOf n w := by
  subst hn
  induction l with
  | nil => exact ⟨0#0, rfl⟩
  | cons b l ih =>
    obtain ⟨hb, hl⟩ := List.forall_mem_cons.mp h
    obtain ⟨w, hw⟩ := ih hl
    have hbit : (b == 1).toNat = b := by interval_cases b <;> rfl
    exact ⟨BitVec.cons (b == 1) w, ((bitsOf_cons _ w).trans (by rw [← hw, hbit])).symm⟩

/-- Exclusive-or of two bits, as the list level writes it. -/
theorem toNat_xor (a b : Bool) : (a ^^ b).toNat = a.toNat ^^^ b.toNat := by
  revert a b; decide

/-! ### `encode` (40_block_coder.md R55, R56) -/

theorem encode_bits {d3 d2 d1 d0 : Nat} (h : allBits [d3, d2, d1, d0] = true) :
    encode [d3, d2, d1, d0] = .ok [d3 ^^^ d2 ^^^ d0, d3 ^^^ d1 ^^^ d0, d3, d2 ^^^ d1 ^^^ d0, d2, d1, d0] :=
  if_pos h

theorem encode_error {l : List Nat} (h : l.length ≠ 4 ∨ ∃ b ∈ l, 2 ≤ b) :
    encode l = .error .invalidInput := by
  unfold encode
  split
  · exact if_neg (h.elim (absurd rfl) not_allBits)
  · rfl

/-- `enc7` is `encode` on words. -/
theorem encode_bitsOf (n : DataUnit) : encode (bitsOf 4 n) = .ok (bitsOf 7 (enc7 n)) := by
  rw [bitsOf_four, encode_bits (allBits_bitsOf n), bitsOf_seven]
  simp only [pos_enc7, toNat_xor]

/-! ### `decode` (40_block_coder.md R59 to R63) -/

theorem decode_error {l : List Nat} (h : l.length ≠ 7 ∨ ∃ b ∈ l, 2 ≤ b) :
    decode l = .error .invalidInput :=
  if_neg fun ⟨hlen, hall⟩ => h.elim (· hlen) (not_allBits · hall)

theorem syndromeOf_bitsOf (cw : Codeword) : syndromeOf (bitsOf 7 cw) = (syndrome cw).toNat := by
  have hplaces : ∀ a b c : Bool, a.toNat + 2 * b.toNat + 4 * c.toNat =
      (BitVec.ofBool c ++ BitVec.ofBool b ++ BitVec.ofBool a).toNat := by decide
  rw [syndrome, ← hplaces, check1, check2, check4]
  simp only [toNat_xor]
  rfl

theorem flipAt_bitsOf (cw : Codeword) {p : Nat} (h1 : 1 ≤ p) (h7 : p ≤ 7) :
    flipAt (bitsOf 7 cw) p = bitsOf 7 (cw ^^^ posMask p) := by
  rw [flipAt, set_bitsOf cw (by omega), posMask, show 7 - 1 - (p - 1) = 7 - p by omega]

/-- `correct` is the list level's flip of the position that the syndrome names. -/
theorem correct_bitsOf (cw : Codeword) (syn : Syndrome) :
    (if syn.toNat = 0 then bitsOf 7 cw else flipAt (bitsOf 7 cw) syn.toNat) = bitsOf 7 (correct cw syn) := by
  by_cases h : syn = 0
  · rw [h]; rfl
  · have hpos : syn.toNat ≠ 0 := fun h0 => h (BitVec.eq_of_toNat_eq h0)
    rw [if_neg hpos, flipAt_bitsOf cw (by omega) (by omega), correct, if_neg h, posMask]

theorem bitsOf_extractUnit (cc : Codeword) : bitsOf 4 (extractUnit cc) =
    [(bitsOf 7 cc).getD 2 0, (bitsOf 7 cc).getD 4 0, (bitsOf 7 cc).getD 5 0, (bitsOf 7 cc).getD 6 0] := by
  revert cc; decide

theorem corrected_eq_one_iff (syn : Syndrome) : corrected syn = 1 ↔ syn.toNat ≠ 0 := by
  revert syn; decide

/-- `dec7` is `decode` on words. -/
theorem decode_bitsOf (cw : Codeword) : decode (bitsOf 7 cw) =
    .ok { unit := bitsOf 4 (dec7 cw).n, syndrome := (dec7 cw).syn.toNat, corrected := (dec7 cw).cor = 1,
          codeword := bitsOf 7 (dec7 cw).cc } := by
  rw [decode, if_pos ⟨length_bitsOf 7 cw, allBits_bitsOf cw⟩, syndromeOf_bitsOf]
  simp only [correct_bitsOf, dec7, bitsOf_extractUnit, corrected_eq_one_iff]

end Sys2Proof.Machine.ListLevel
end

section
/-! SUPPORT. ENC and DEC at the port: the checks of 40_block_coder.md R58 and R67 in the fields of the request. -/

namespace Sys2Proof.Machine

/-- The bits of `din` from `k` up, as the port rules name them and as the decoder checks them. -/
theorem extractLsb'_high_eq_zero_iff {k m : Nat} (hkm : k + m = 32) (din : Data) :
    din.extractLsb' k m = 0 ↔ din >>> k = 0 := by
  have hlt : din.toNat >>> k < 2 ^ m := by
    rw [Nat.shiftRight_eq_div_pow, Nat.div_lt_iff_lt_mul (Nat.two_pow_pos k), ← Nat.pow_add, Nat.add_comm, hkm]
    exact din.isLt
  rw [BitVec.toNat_eq, BitVec.toNat_eq, BitVec.extractLsb'_toNat, BitVec.toNat_ushiftRight, Nat.mod_eq_of_lt hlt]
  rfl

section Port
variable {s : State} {w : ReqWord} {rest : List ReqWord} {o : OpName}

/-- A request whose operand fields fit its operation is answered with the operation's result. -/
theorem step_of_fits (hp : s.pending = w :: rest) (ho : opField w = o.code) (hf : Fits o (lenField w) (dinField w)) :
    step s = .next (s.answered w rest .ok (fitsResult o (lenField w) (dinField w))) := by
  rw [step_eq_answered hp, ho, answer_fits hf]

/-- A request whose operand fields do not fit its operation is answered with INVALID_INPUT. -/
theorem step_of_not_fits (hp : s.pending = w :: rest) (ho : opField w = o.code)
    (hf : ¬ Fits o (lenField w) (dinField w)) : step s = .next (s.answered w rest .invalidInput 0) := by
  rw [step_eq_answered hp, ho, answer_not_fits hf]

end Port

theorem fits_enc_iff (len : Len) (din : Data) : Fits .enc len din ↔ len = 0 ∧ din.extractLsb' 4 28 = 0 :=
  and_congr_right fun _ => (extractLsb'_high_eq_zero_iff rfl din).symm

theorem fits_dec_iff (len : Len) (din : Data) : Fits .dec len din ↔ len = 0 ∧ din.extractLsb' 7 25 = 0 :=
  and_congr_right fun _ => (extractLsb'_high_eq_zero_iff rfl din).symm

/-- The row of an operation that reads no bit count (30_encoding.md R49), by the fields of the request. -/
theorem mask_iff_fits {o : OpName} (h : o.takesLen = false) (w : ReqWord) :
    w &&& o.mask = o.fixed ↔ opField w = o.code ∧ Fits o (lenField w) (dinField w) := by
  have hcount : ¬ (o = .pack ∨ o = .unpack) := by
    rintro (rfl | rfl) <;> cases h
  constructor
  · intro hm
    have ho := opField_of_mask hm
    exact ⟨ho, (fits_iff_mask_and_count ho).mpr ⟨hm, fun hc => absurd hc hcount⟩⟩
  · rintro ⟨ho, hf⟩
    exact ((fits_iff_mask_and_count ho).mp hf).1

theorem fitsResult_enc (len : Len) (din : Data) :
    fitsResult .enc len din = (enc7 (din.extractLsb' 0 4)).setWidth 32 := by
  rw [← BitVec.setWidth_eq_extractLsb' (by decide)]; rfl

theorem fitsResult_dec (len : Len) (din : Data) :
    fitsResult .dec len din = decResult (dec7 (din.extractLsb' 0 7)) := by
  rw [← BitVec.setWidth_eq_extractLsb' (by decide)]; rfl

section Request
variable {s : State} {w : ReqWord} {rest : List ReqWord} (hp : s.pending = w :: rest)
include hp

/-- ENC with `len` and `din[31:4]` at 0 (40_block_coder.md R58). -/
theorem step_enc (ho : opField w = 0x1) (hlen : lenField w = 0) (hdin : (dinField w).extractLsb' 4 28 = 0) :
    step s = .next (s.answered w rest .ok ((enc7 ((dinField w).extractLsb' 0 4)).setWidth 32)) := by
  rw [step_of_fits (o := .enc) hp ho ((fits_enc_iff ..).mpr ⟨hlen, hdin⟩), fitsResult_enc]

/-- DEC with `len` and `din[31:7]` at 0 (40_block_coder.md R67). -/
theorem step_dec (ho : opField w = 0x2) (hlen : lenField w = 0) (hdin : (dinField w).extractLsb' 7 25 = 0) :
    step s = .next (s.answered w rest .ok (decResult (dec7 ((dinField w).extractLsb' 0 7)))) := by
  rw [step_of_fits (o := .dec) hp ho ((fits_dec_iff ..).mpr ⟨hlen, hdin⟩), fitsResult_dec]

end Request

end Sys2Proof.Machine
end

section
/-! PROOFS. The statements about the Block Coder of 40_block_coder.md. -/

namespace Sys2Proof.Proofs

open Sys2Proof Sys2Proof.Machine

/-- Settles O24: ENC's result is `enc7` zero-extended, and `encode` computes the same bits. -/
theorem encWritesTheCodeword : Obligations.EncWritesTheCodeword := by
  refine ⟨fun n s => ?_, by decide, ListLevel.encode_bitsOf⟩
  rw [exec_enc, setWidth_enc7]

/-- Settles O25: the three checks are those of the decoder, and each position set is that of one check. -/
theorem codewordsPassTheParityChecks : Obligations.CodewordsPassTheParityChecks := by
  intro n s
  refine ⟨enc7 n, exec_enc n s, check1_enc7 n, check2_enc7 n, check4_enc7 n, fun k hk => ?_⟩
  interval_cases k
  · exact (foldl_xor_pos _ 1 3 5 7).trans (check1_enc7 n)
  · exact (foldl_xor_pos _ 2 3 6 7).trans (check2_enc7 n)
  · exact (foldl_xor_pos _ 4 5 6 7).trans (check4_enc7 n)

/-- Settles O26: the fields fit ENC exactly when `len` and `din[31:4]` are 0, and a codeword holds its DataUnit. -/
theorem encRequest : Obligations.EncRequest := by
  refine ⟨fun s w rest hp ho => ⟨step_enc hp ho, fun h => ?_⟩,
    fun w => (mask_iff_fits (o := .enc) rfl w).trans (and_congr_right fun _ => fits_enc_iff ..), rfl, rfl,
    fun _ _ h => enc7_injective h, fun s rest hp => step_enc hp rfl rfl rfl⟩
  exact step_of_not_fits (o := .enc) hp ho (mt (fits_enc_iff ..).mp (not_and_or.mpr h))

/-- Settles O27: the rule's formulas are the definitions of `dec7`, and `decode` computes the same fields. -/
theorem decWritesTheDecodedFields : Obligations.DecWritesTheDecodedFields := by
  refine ⟨ListLevel.decode_bitsOf, ?_⟩
  intro cw s s1 s2 s4 syn cc cor n
  have hcc : correct cw (syndrome cw) = cc := (ite_not ..).symm
  have hcor : corrected (syndrome cw) = cor := (ite_not ..).symm
  have hdec : dec7 cw = { n := n, syn := syn, cor := cor, cc := cc } := by
    rw [dec7, hcc, hcor]; rfl
  exact ⟨by rw [exec_dec, hdec], hdec⟩

/-- Settles O28: a codeword's syndrome is 0, and it holds its DataUnit. -/
theorem decodeOfEncodeIsClean : Obligations.DecodeOfEncodeIsClean := by
  intro n
  refine ⟨fun s => ?_, dec7_enc7 n, _, ListLevel.encode_bitsOf n, ?_⟩
  · rw [exec_dec, dec7_enc7]; rfl
  · rw [ListLevel.decode_bitsOf, dec7_enc7]; rfl

/-- Settles O29: the syndrome of one error is its position, so that flipping it again restores the codeword. -/
theorem singleBitErrorsAreCorrected : Obligations.SingleBitErrorsAreCorrected := by
  intro n
  refine ⟨fun q s h1 h7 => ?_, _, ListLevel.encode_bitsOf n, fun p hp => ?_⟩
  · have hdec := dec7_enc7_xor_posMask n h1 h7
    rw [posMask] at hdec
    exact ⟨by rw [exec_dec, hdec]; rfl, hdec⟩
  · have hflip := ListLevel.flipAt_bitsOf (enc7 n) (p := p + 1) (by omega) (by omega)
    rw [ListLevel.flipAt, Nat.add_sub_cancel] at hflip
    rw [hflip, ListLevel.decode_bitsOf, dec7_enc7_xor_posMask n (by omega) (by omega)]
    have hsyn : (BitVec.ofNat 3 (p + 1)).toNat = p + 1 := Nat.mod_eq_of_lt (by omega)
    rw [hsyn]; rfl

/-- Settles O30: decoding is linear up to the codeword, so that each clause is one about the error pattern. -/
theorem multiBitErrorsAreMiscorrected : Obligations.MultiBitErrorsAreMiscorrected := by
  intro n e s d ps
  have hsyn : d.syn = syndrome e := congrArg Decoded.syn (dec7_enc7_xor n e)
  have hcor : d.cor = corrected d.syn := rfl
  have hn : e ≠ 0 → (d.n = n ↔ ps.length = 1) := dec7_enc7_xor_n_eq_iff n
  have hwrong : 2 ≤ ps.length → d.n ≠ n := by
    intro h2 heq
    have he : e ≠ 0 := by rintro rfl; exact absurd h2 (by decide)
    have h1 := (hn he).mp heq
    omega
  refine ⟨exec_dec _ s, ?_, fun h2 => ?_, fun h3 => ⟨?_, fun h0 => ⟨?_, hwrong (by omega)⟩⟩,
    fun h2 => ⟨hwrong h2, dec7_cc _⟩, hn⟩
  · rw [hsyn, toNat_syndrome]
  · have hne : d.syn ≠ 0 := hsyn ▸ syndrome_ne_zero_of_two_errors h2
    exact ⟨hne, hcor.trans (corrected_of_ne_zero hne), hwrong h2.ge⟩
  · rw [hsyn]
    exact syndrome_eq_zero_iff_of_three_errors h3
  · rw [hcor, h0]; rfl

/-- Settles O31: the fields fit DEC exactly when `len` and `din[31:7]` are 0; the corner cases are codewords with
no error and with one. -/
theorem decRequest : Obligations.DecRequest := by
  refine ⟨fun s w rest hp ho => ⟨fun hlen hdin d hd => ?_, fun h => ?_⟩,
    fun w => (mask_iff_fits (o := .dec) rfl w).trans (and_congr_right fun _ => fits_dec_iff ..), fun n => ?_,
    fun n q hq => ?_, rfl, rfl, rfl, fun s rest hp => step_dec hp rfl rfl rfl⟩
  · rw [hd, ← decResult_eq]
    exact step_dec hp ho hlen hdin
  · exact step_of_not_fits (o := .dec) hp ho (mt (fits_dec_iff ..).mp (not_and_or.mpr h))
  · rw [dec7_enc7]
    exact ⟨rfl, rfl⟩
  · have hrange : 1 ≤ q ∧ q ≤ 7 := by revert q; decide
    rw [dec7_enc7_xor_posMask n hrange.1 hrange.2]
    exact ⟨rfl, rfl⟩

/-- Settles O51: the first case of `encode`, its failures, and its agreement with `enc7`. -/
theorem listEncode : Obligations.ListEncode := by
  refine ⟨fun d3 d2 d1 d0 h3 h2 h1 h0 => ListLevel.encode_bits ?_, fun _ h => ListLevel.encode_error h,
    ListLevel.encode_bitsOf⟩
  simp only [ListLevel.allBits_iff, List.forall_mem_cons, h3, h2, h1, h0, List.not_mem_nil, false_imp_iff,
    implies_true, and_self]

/-- Settles O52: the failures of `decode`, its agreement with `dec7`, and every list of seven bits as a codeword. -/
theorem listDecode : Obligations.ListDecode :=
  ⟨fun _ h => ListLevel.decode_error h, ListLevel.decode_bitsOf,
    fun _ hlen h => ListLevel.exists_eq_bitsOf h hlen⟩

end Sys2Proof.Proofs
end

section
/-! SUPPORT. PACK, UNPACK and ABS16 of 41_split_pack.md: the packer as a shift, the magnitude of a sample, the
three requests at the port, and splitting and joining as inverses. -/

namespace Sys2Proof.Machine

/-! ### The packer and the unpacker as shifts (41_split_pack.md R72, R75) -/

theorem pack_eq_shiftLeft (n : Nat) (S : Data) : pack n S = S <<< (32 - n) := by
  unfold pack
  split
  · next h => rw [h]; exact (BitVec.shiftLeft_eq_zero le_rfl).symm
  · rfl

theorem unpack_eq_ushiftRight (n : Nat) (w : Data) : unpack n w = w >>> (32 - n) := by
  unfold unpack
  split
  · next h => rw [h]; exact (BitVec.ushiftRight_eq_zero le_rfl).symm
  · rfl

/-- The bits that the mask of PACK's operand clears are those that the shift drops. -/
theorem pack_seqOperand {n : Nat} (hn : n ≤ 32) (din : Data) : pack n (seqOperand n din) = din <<< (32 - n) := by
  rw [← pack_eq_shiftLeft]
  apply BitVec.eq_of_getLsbD_eq
  intro i hi
  rw [getLsbD_pack n hn, getLsbD_pack n hn, getLsbD_seqOperand n hn]
  by_cases h : 32 - n ≤ i
  · simp [show i - (32 - n) < n by omega]
  · simp [h]

/-- PACK's operand is the low `n` bits of `din` only. -/
theorem seqOperand_congr {n : Nat} (hn : n ≤ 32) {din din' : Data}
    (h : ∀ i < n, din.getLsbD i = din'.getLsbD i) : seqOperand n din = seqOperand n din' := by
  apply BitVec.eq_of_getLsbD_eq
  intro i _
  rw [getLsbD_seqOperand n hn, getLsbD_seqOperand n hn]
  by_cases hi : i < n
  · rw [h i hi]
  · simp [hi]

/-- A sequence is unpacked from its packed bytes (41_split_pack.md R75). -/
theorem unpack_pack {n : Nat} (hn : n ≤ 32) {S : Data} (hS : S.toNat < 2 ^ n) : unpack n (pack n S) = S := by
  apply BitVec.eq_of_getLsbD_eq
  intro i hi
  rw [getLsbD_unpack n hn, getLsbD_pack n hn]
  by_cases hin : i < n
  · simp [hin, show 32 - n + i < 32 by omega]
  · have hhigh : S.getLsbD i = false :=
      Nat.testBit_lt_two_pow (hS.trans_le (Nat.pow_le_pow_right (by decide) (by omega)))
    simp [hin, hhigh]

/-- Packing what was unpacked clears the padding and keeps the rest (41_split_pack.md R75). -/
theorem getLsbD_pack_unpack {n : Nat} (hn : n ≤ 32) (w : Data) {i : Nat} (hi : i < 32) :
    (pack n (unpack n w)).getLsbD i = (decide (32 - n ≤ i) && w.getLsbD i) := by
  rw [getLsbD_pack n hn, getLsbD_unpack n hn]
  by_cases h : 32 - n ≤ i
  · simp [hi, h, show i - (32 - n) < n by omega]
  · simp [h]

/-- The four bits below a packed stream are 0 (41_split_pack.md R80). -/
theorem extractLsb'_padding_pack (S : Data) : (pack 28 S).extractLsb' 0 4 = 0 := by
  rw [pack_eq_shiftLeft, BitVec.shiftLeft_eq_concat_of_lt (by decide)]
  exact BitVec.extractLsb'_append_eq_right

/-- A sequence of length 8 goes to byte 0. -/
theorem shiftLeft_24 (din : Data) : din <<< 24 = din.extractLsb' 0 8 ++ 0#24 := by
  rw [BitVec.shiftLeft_eq_concat_of_lt (by decide)]; rfl

/-- The single bit of a sequence of length 1 goes to the top. -/
theorem shiftLeft_31_of_bit_zero {din : Data} (h : din.getLsbD 0 = true) : din <<< 31 = 0x80000000 := by
  rw [BitVec.shiftLeft_eq_concat_of_lt (by decide)]
  have hbit : din.extractLsb' 0 1 = 1#1 := by
    apply BitVec.eq_of_getLsbD_eq
    intro i hi
    obtain rfl : i = 0 := by omega
    simpa using h
  rw [hbit]; rfl

/-! ### The meanings of PACK and UNPACK -/

/-- A PACK with a count up to 32 answers OK with the packed operand (41_split_pack.md R73). -/
theorem exec_pack_of_le {n : Len} (hn : n.toNat ≤ 32) (din : Data) (s : State) :
    exec (.pack n din) s = .next (respond .ok (pack n.toNat (seqOperand n.toNat din)) s) :=
  if_pos ((le_packMax_iff n).mpr hn)

theorem exec_pack_shift {n : Len} (hn : n.toNat ≤ 32) (din : Data) (s : State) :
    exec (.pack n din) s = .next { s with rspErr := 0b00, rspDout := din <<< (32 - n.toNat) } := by
  rw [exec_pack_of_le hn, pack_seqOperand hn]; rfl

theorem exec_unpack_shift {n : Len} (hn : n.toNat ≤ 32) (w : Data) (s : State) :
    exec (.unpack n w) s = .next { s with rspErr := 0b00, rspDout := w >>> (32 - n.toNat) } := by
  rw [exec_unpack_of_le hn, unpack_eq_ushiftRight]; rfl

/-- What PACK answers, by what the shift of its operand is. -/
theorem exec_pack_of_shift {n : Len} {k : Nat} (hk : n.toNat + k = 32) {din d : Data} (hd : din <<< k = d)
    (s : State) : exec (.pack n din) s = .next { s with rspErr := 0b00, rspDout := d } := by
  rw [exec_pack_shift (by omega), show 32 - n.toNat = k by omega, hd]

/-- What UNPACK answers, by what the shift of its operand is. -/
theorem exec_unpack_of_shift {n : Len} {k : Nat} (hk : n.toNat + k = 32) {w d : Data} (hd : w >>> k = d)
    (s : State) : exec (.unpack n w) s = .next { s with rspErr := 0b00, rspDout := d } := by
  rw [exec_unpack_shift (by omega), show 32 - n.toNat = k by omega, hd]

/-- A PACK with a count above 32 answers INVALID_INPUT (log entry 10). -/
theorem exec_pack_of_gt {n : Len} (hn : 32 < n.toNat) (din : Data) (s : State) :
    exec (.pack n din) s = .next { s with rspErr := 0b01, rspDout := 0 } :=
  if_neg (mt (le_packMax_iff n).mp (Nat.not_le.mpr hn))

/-- An UNPACK with a count above 32 answers INVALID_INPUT (log entry 10). -/
theorem exec_unpack_of_gt {n : Len} (hn : 32 < n.toNat) (w : Data) (s : State) :
    exec (.unpack n w) s = .next { s with rspErr := 0b01, rspDout := 0 } :=
  if_neg (mt (le_packMax_iff n).mp (Nat.not_le.mpr hn))

/-! ### The magnitude of a sample (41_split_pack.md R78) -/

theorem abs16_eq_abs (x : Sample) : abs16 x = x.abs := by
  rw [abs16, BitVec.abs_eq, BitVec.msb_eq_getLsbD_last]
  cases x.getLsbD 15 <;> rfl

theorem toNat_abs16 (x : Sample) : (abs16 x).toNat = x.toInt.natAbs := by
  rw [abs16_eq_abs, BitVec.toNat_abs, BitVec.toInt_eq_msb_cond]
  split
  · omega
  · rfl

theorem getLsbD_15_abs16 (x : Sample) : (abs16 x).getLsbD 15 = true ↔ x = 0x8000 := by
  have hmsb : (abs16 x).getLsbD 15 = x.abs.msb := by rw [abs16_eq_abs, BitVec.msb_eq_getLsbD_last]
  rw [hmsb, BitVec.msb_abs, decide_eq_true (show 0 < 16 by decide), Bool.and_true, decide_eq_true_iff]
  rfl

/-- The negation of a sample, as the rule writes it. -/
theorem ofNat_sub_toNat (x : Sample) : BitVec.ofNat 16 (2 ^ 16 - x.toNat) = -x := by
  apply BitVec.eq_of_toNat_eq
  rw [BitVec.toNat_ofNat, BitVec.toNat_neg]

/-- The sign is lost: a sample and its negation have one magnitude. -/
theorem abs16_neg (x : Sample) : abs16 (-x) = abs16 x := by
  apply BitVec.eq_of_toNat_eq
  rw [toNat_abs16, toNat_abs16, BitVec.toInt_neg_eq_ite]
  split
  · rfl
  · exact Int.natAbs_neg _

/-- ABS16 answers OK with the zero-extended magnitude (41_split_pack.md R79). -/
theorem exec_abs16 (x : Sample) (s : State) :
    exec (.abs16 x) s = .next { s with rspErr := 0b00, rspDout := 0#16 ++ abs16 x } := by
  rw [zero_append_eq_setWidth]; rfl

/-! ### The requests at the port -/

/-- The row of an operation that reads all of `len` and `din`: the operation code alone (30_encoding.md R49). -/
theorem mask_iff_code {o : OpName} (h : o.takesLen = true) (w : ReqWord) :
    w &&& o.mask = o.fixed ↔ opField w = o.code := by
  refine ⟨opField_of_mask, fun ho => ?_⟩
  rw [← reqWord_fields w, fixed_iff]
  refine ⟨ho, ?_⟩
  cases o with
  | pack => trivial
  | unpack => trivial
  | _ => cases h

theorem fits_abs16_iff (len : Len) (din : Data) :
    Fits .abs16 len din ↔ len = 0 ∧ din.extractLsb' 16 16 = 0 :=
  and_congr_right fun _ => (extractLsb'_high_eq_zero_iff rfl din).symm

theorem fitsResult_abs16 (len : Len) (din : Data) :
    fitsResult .abs16 len din = 0#16 ++ abs16 (din.extractLsb' 0 16) := by
  rw [zero_append_eq_setWidth, ← BitVec.setWidth_eq_extractLsb' (by decide)]; rfl

/-- A negative sample sign-extended to 32 bits has bits above bit 15 (41_split_pack.md R79). -/
theorem extractLsb'_high_signExtend_ne_zero {x : Sample} (h : x.getLsbD 15 = true) :
    (x.signExtend 32).extractLsb' 16 16 ≠ 0 := by
  have hbit : ((x.signExtend 32).extractLsb' 16 16).getLsbD 0 = true := by
    rw [BitVec.getLsbD_extractLsb', BitVec.getLsbD_signExtend, BitVec.msb_eq_getLsbD_last]
    exact h
  intro h0
  rw [h0] at hbit
  exact absurd hbit (by decide)

section Request
variable {s : State} {w : ReqWord} {rest : List ReqWord} (hp : s.pending = w :: rest)
include hp

/-- ABS16 with `len` and `din[31:16]` at 0 (41_split_pack.md R79). -/
theorem step_abs16 (ho : opField w = 0x8) (hlen : lenField w = 0) (hdin : (dinField w).extractLsb' 16 16 = 0) :
    step s = .next (s.answered w rest .ok (0#16 ++ abs16 ((dinField w).extractLsb' 0 16))) := by
  rw [step_of_fits (o := .abs16) hp ho ((fits_abs16_iff ..).mpr ⟨hlen, hdin⟩), fitsResult_abs16]

/-- ABS16 with a bit of `len` or of `din[31:16]` set (41_split_pack.md R79). -/
theorem step_abs16_invalid (ho : opField w = 0x8)
    (h : lenField w ≠ 0 ∨ (dinField w).extractLsb' 16 16 ≠ 0) :
    step s = .next (s.answered w rest .invalidInput 0) :=
  step_of_not_fits (o := .abs16) hp ho (mt (fits_abs16_iff ..).mp (not_and_or.mpr h))

end Request

/-! ### Splitting and joining (41_split_pack.md R69, R70, R76, R77) -/

theorem unitOf_join16 (n0 n1 n2 n3 : DataUnit) :
    unitOf 0 (join16 n0 n1 n2 n3) = n0 ∧ unitOf 1 (join16 n0 n1 n2 n3) = n1 ∧
      unitOf 2 (join16 n0 n1 n2 n3) = n2 ∧ unitOf 3 (join16 n0 n1 n2 n3) = n3 := by
  refine ⟨?_, ?_, ?_, ?_⟩
  · exact (BitVec.extractLsb'_append_eq_of_le (by decide)).trans <|
      (BitVec.extractLsb'_append_eq_of_le (by decide)).trans BitVec.extractLsb'_append_eq_left
  · exact (BitVec.extractLsb'_append_eq_of_le (by decide)).trans <|
      (BitVec.extractLsb'_append_eq_of_le (by decide)).trans BitVec.extractLsb'_append_eq_right
  · exact (BitVec.extractLsb'_append_eq_of_le (by decide)).trans BitVec.extractLsb'_append_eq_right
  · exact BitVec.extractLsb'_append_eq_right

/-- A stream is its four codewords. -/
theorem concat28_codewordOf (S : BitStream) :
    concat28 (codewordOf 0 S) (codewordOf 1 S) (codewordOf 2 S) (codewordOf 3 S) = S := by
  have h01 : codewordOf 0 S ++ codewordOf 1 S = S.extractLsb' 14 14 :=
    BitVec.extractLsb'_append_extractLsb'_eq_extractLsb' rfl
  have h012 : codewordOf 0 S ++ codewordOf 1 S ++ codewordOf 2 S = S.extractLsb' 7 21 := by
    rw [h01]; exact BitVec.extractLsb'_append_extractLsb'_eq_extractLsb' rfl
  rw [concat28, h012]
  exact (BitVec.extractLsb'_append_extractLsb'_eq_extractLsb' rfl).trans BitVec.extractLsb'_eq_self

end Sys2Proof.Machine
end

section
/-! SUPPORT. The lists of 41_split_pack.md: the bits of a cut and of a joined word as lists, the packed bytes,
and the agreement of the list-level functions with the words. -/

namespace Sys2Proof.Machine.ListLevel

/-! ### The list of a word's bits, cut, joined and read -/

/-- An element past the end counts as 0. -/
theorem getD_bitsOf {n : Nat} (w : BitVec n) (j : Nat) :
    (bitsOf n w).getD j 0 = (decide (j < n) && w.getLsbD (n - 1 - j)).toNat := by
  by_cases hj : j < n
  · rw [List.getD_eq_getElem _ _ (by rwa [length_bitsOf]), getElem_bitsOf]
    simp [hj]
  · rw [List.getD_eq_default _ _ (by rw [length_bitsOf]; omega)]
    simp [hj]

theorem bitsOf_append {m n : Nat} (x : BitVec m) (y : BitVec n) :
    bitsOf (m + n) (x ++ y) = bitsOf m x ++ bitsOf n y := by
  apply List.ext_getElem (by simp only [length_bitsOf, List.length_append])
  intro j hj _
  rw [length_bitsOf] at hj
  rw [getElem_bitsOf, BitVec.getLsbD_append, List.getElem_append]
  simp only [length_bitsOf, getElem_bitsOf]
  by_cases hjm : j < m
  · rw [if_neg (by omega), dif_pos hjm]
    congr 2; omega
  · rw [if_pos (by omega), dif_neg hjm]
    congr 2; omega

/-- A stretch of the list is the list of the word's field at that place. -/
theorem take_drop_bitsOf {n : Nat} (w : BitVec n) {a b : Nat} (h : a + b ≤ n) :
    ((bitsOf n w).drop a).take b = bitsOf b (w.extractLsb' (n - a - b) b) := by
  apply List.ext_getElem (by simp only [List.length_take, List.length_drop, length_bitsOf]; omega)
  intro j _ hj
  rw [length_bitsOf] at hj
  rw [List.getElem_take, List.getElem_drop, getElem_bitsOf, getElem_bitsOf, BitVec.getLsbD_extractLsb',
    decide_eq_true (by omega), Bool.true_and]
  congr 2; omega

/-- The first element counts for the weight of its place. -/
theorem valueOf_cons (b : Nat) (l : List Nat) : valueOf (b :: l) = b * 2 ^ l.length + valueOf l := by
  have hacc : ∀ (l : List Nat) (a : Nat),
      l.foldl (fun a b => 2 * a + b) a = a * 2 ^ l.length + l.foldl (fun a b => 2 * a + b) 0 := by
    intro l
    induction l with
    | nil => simp
    | cons c l ih =>
      intro a
      rw [List.foldl_cons, List.foldl_cons, ih, ih (2 * 0 + c), List.length_cons, Nat.pow_succ]
      ring
  simpa [valueOf] using hacc l b

/-- The number of a word's list of bits is the word's own. -/
theorem valueOf_bitsOf {n : Nat} (w : BitVec n) : valueOf (bitsOf n w) = w.toNat := by
  induction n with
  | zero => rw [BitVec.eq_nil w]; rfl
  | succ n ih =>
    obtain ⟨b, x, rfl⟩ : ∃ (b : Bool) (x : BitVec n), w = BitVec.cons b x :=
      ⟨_, _, (BitVec.cons_msb_setWidth w).symm⟩
    rw [bitsOf_cons, valueOf_cons, length_bitsOf, ih, BitVec.toNat_cons', Nat.shiftLeft_eq]

theorem getD_map_range (f : Nat → Nat) {j n : Nat} (hj : j < n) : ((List.range n).map f).getD j 0 = f j := by
  rw [List.getD_eq_getElem _ _ (by simpa using hj), List.getElem_map, List.getElem_range]

/-! ### Packing (41_split_pack.md R71, R72, R80) -/

theorem length_packBits (l : List Nat) : (packBits l).length = (l.length + 7) / 8 := by simp [packBits]

theorem getD_packBits {l : List Nat} {i : Nat} (hi : i < (l.length + 7) / 8) :
    (packBits l).getD i 0 = packedByte l i :=
  getD_map_range _ hi

/-- A packed byte is the number of its eight bits. -/
theorem packedByte_eq_valueOf (l : List Nat) (i : Nat) :
    packedByte l i = valueOf ((List.range 8).map fun t => l.getD (8 * i + t) 0) := by
  have h8 : List.range 8 = [0, 1, 2, 3, 4, 5, 6, 7] := rfl
  simp only [packedByte, valueOf, h8, List.map_cons, List.map_nil, List.sum_cons, List.sum_nil, List.foldl_cons,
    List.foldl_nil, Nat.reduceSub, Nat.reducePow]
  omega

/-- With at most 28 bits the low four bits of byte 3 are padding: the bits before them count for multiples of 16
(41_split_pack.md R80). -/
theorem packedByte_three_mod_sixteen {l : List Nat} (h : l.length ≤ 28) : packedByte l 3 % 16 = 0 := by
  refine Nat.mod_eq_zero_of_dvd (List.dvd_sum (List.forall_mem_map.mpr fun t _ => ?_))
  by_cases ht : t < 4
  · exact Dvd.dvd.mul_left (pow_dvd_pow 2 (show 4 ≤ 7 - t by omega)) _
  · rw [List.getD_eq_default _ _ (by omega), Nat.zero_mul]
    exact dvd_zero 16

/-- Byte `i` of the list's bytes is byte `i` of the packed word (41_split_pack.md R72). -/
theorem packedByte_bitsOf {n : Nat} (hn : n ≤ 32) (S : BitVec n) (i : Fin 4) :
    packedByte (bitsOf n S) i.val = (byteOf i (pack n (S.setWidth 32))).toNat := by
  rw [packedByte_eq_valueOf, ← valueOf_bitsOf]
  refine congrArg valueOf (List.map_congr_left fun t ht => ?_)
  have ht8 : t < 8 := List.mem_range.mp ht
  rw [getD_bitsOf, show 8 - 1 - t = 7 - t by omega, getLsbD_byteOf i _ ht8, getLsbD_pack n hn,
    BitVec.getLsbD_setWidth]
  by_cases h : 8 * i.val + t < n
  · simp [h, show 32 - n ≤ 31 - (8 * i.val + t) by omega, show 31 - (8 * i.val + t) < 32 by omega,
      show 31 - (8 * i.val + t) - (32 - n) = n - 1 - (8 * i.val + t) by omega,
      show n - 1 - (8 * i.val + t) < 32 by omega]
  · simp [h, show ¬ 32 - n ≤ 31 - (8 * i.val + t) by omega]

/-- All four bytes of a packed word, those past the end of the list's bytes too. -/
theorem bytesOf_pack {n : Nat} (hn : n ≤ 32) (S : BitVec n) :
    bytesOf (pack n (S.setWidth 32)) = (List.range 4).map (packedByte (bitsOf n S)) := by
  have h := packedByte_bitsOf hn S
  rw [bytesOf, ← h 0, ← h 1, ← h 2, ← h 3]; rfl

/-- A byte past the end of the list is 0. -/
theorem packedByte_eq_zero {l : List Nat} {i : Nat} (h : l.length ≤ 8 * i) : packedByte l i = 0 := by
  refine List.sum_eq_zero (List.forall_mem_map.mpr fun t _ => ?_)
  rw [List.getD_eq_default _ _ (by omega), Nat.zero_mul]

/-- The list's bytes are the first bytes of the packed word. -/
theorem packBits_bitsOf {n : Nat} (hn : n ≤ 32) (S : BitVec n) :
    packBits (bitsOf n S) = (bytesOf (pack n (S.setWidth 32))).take ((n + 7) / 8) := by
  rw [bytesOf_pack hn, ← List.map_take, List.take_range, packBits, length_bitsOf, Nat.min_eq_left (by omega)]

/-- The other bytes of the packed word are 0. -/
theorem drop_bytesOf_pack {n : Nat} (hn : n ≤ 32) (S : BitVec n) :
    ∀ b ∈ (bytesOf (pack n (S.setWidth 32))).drop ((n + 7) / 8), b = 0 := by
  intro b hb
  obtain ⟨k, hk, rfl⟩ := List.getElem_of_mem hb
  rw [List.getElem_drop]
  simp only [bytesOf_pack hn, List.getElem_map, List.getElem_range]
  exact packedByte_eq_zero (by rw [length_bitsOf]; omega)

/-- The rule's own sum, with a bit past the end counted as 0 (41_split_pack.md R71). -/
theorem packedByte_eq_sum_ite (l : List Nat) (i : Nat) : packedByte l i =
    ((List.range 8).map fun t => (if 8 * i + t < l.length then l.getD (8 * i + t) 0 else 0) * 2 ^ (7 - t)).sum := by
  refine congrArg List.sum (List.map_congr_left fun t _ => ?_)
  split
  · rfl
  · rw [List.getD_eq_default _ _ (by omega)]

/-! ### Unpacking (41_split_pack.md R74, R75) -/

theorem unpackBits_ok {n : Nat} {bytes : List Nat} (h : (n + 7) / 8 ≤ bytes.length) :
    unpackBits n bytes = .ok ((List.range n).map fun j => (bytes.getD (j / 8) 0 >>> (7 - j % 8)) &&& 1) :=
  if_neg (Nat.not_lt.mpr h)

theorem unpackBits_error {n : Nat} {bytes : List Nat} (h : bytes.length < (n + 7) / 8) :
    unpackBits n bytes = .error .invalidInput :=
  if_pos h

theorem length_bytesOf (w : Data) : (bytesOf w).length = 4 := rfl

theorem getD_bytesOf (w : Data) (i : Fin 4) : (bytesOf w).getD i.val 0 = (byteOf i w).toNat := by
  match i with
  | 0 => rfl
  | 1 => rfl
  | 2 => rfl
  | 3 => rfl

/-- A bit of a word, as the list level reads it. -/
theorem toNat_shiftRight_and_one {n : Nat} (w : BitVec n) (i : Nat) :
    (w.toNat >>> i) &&& 1 = (w.getLsbD i).toNat := by
  rw [BitVec.getLsbD, Nat.toNat_testBit, Nat.and_one_is_mod, Nat.shiftRight_eq_div_pow]

/-- Element `j` of the bits read from a word's first `m` bytes is bit `31 - j` of the word. -/
theorem unpackedBit_bytesOf (w : Data) {j m : Nat} (hj : j < 32) (hm : j / 8 < m) :
    (((bytesOf w).take m).getD (j / 8) 0 >>> (7 - j % 8)) &&& 1 = (w.getLsbD (31 - j)).toNat := by
  have hbyte : ((bytesOf w).take m).getD (j / 8) 0 = (byteOf ⟨j / 8, by omega⟩ w).toNat := by
    rw [← getD_bytesOf, List.getD_eq_getElem?_getD, List.getElem?_take_of_lt hm, ← List.getD_eq_getElem?_getD]
  rw [hbyte, toNat_shiftRight_and_one, getLsbD_byteOf _ w (by omega), Nat.div_add_mod]

/-- `unpack` is `unpackBits` on words. -/
theorem unpackBits_bytesOf {n : Nat} (hn : n ≤ 32) (w : Data) {m : Nat} (hm : (n + 7) / 8 ≤ m) :
    unpackBits n ((bytesOf w).take m) = .ok (bitsOf n ((unpack n w).setWidth n)) := by
  rw [unpackBits_ok (by rw [List.length_take, length_bytesOf]; omega), bitsOf]
  refine congrArg Except.ok (List.map_congr_left fun j hj => ?_)
  have hjn : j < n := List.mem_range.mp hj
  rw [unpackedBit_bytesOf w (by omega) (by omega), BitVec.getLsbD_setWidth, getLsbD_unpack n hn,
    decide_eq_true (show n - 1 - j < n by omega), Bool.true_and, Bool.true_and]
  congr 2; omega

/-! ### Splitting and joining (41_split_pack.md R68, R70, R76, R77) -/

theorem nibbleBits_toNat (x : DataUnit) : nibbleBits x.toNat = bitsOf 4 x := by
  revert x; decide

/-- A nibble shifted down and masked is the unit at its place. -/
theorem shiftRight_and_eq_toNat_unitOf (k : Fin 4) (v : Sample) :
    (v.toNat >>> (12 - 4 * k.val)) &&& 0xF = (unitOf k v).toNat := by
  rw [unitOf, BitVec.extractLsb'_toNat]
  exact Nat.and_two_pow_sub_one_eq_mod _ 4

theorem split16_toNat (v : Sample) : split16 v.toNat =
    [bitsOf 4 (unitOf 0 v), bitsOf 4 (unitOf 1 v), bitsOf 4 (unitOf 2 v), bitsOf 4 (unitOf 3 v)] := by
  have h (k : Fin 4) : nibbleBits ((v.toNat >>> (12 - 4 * k.val)) &&& 0xF) = bitsOf 4 (unitOf k v) := by
    rw [shiftRight_and_eq_toNat_unitOf, nibbleBits_toNat]
  rw [← h 0, ← h 1, ← h 2, ← h 3]; rfl

/-- `join16` on words is `join16` of the lists of the units. -/
theorem join16_bitsOf (n0 n1 n2 n3 : DataUnit) :
    join16 [bitsOf 4 n0, bitsOf 4 n1, bitsOf 4 n2, bitsOf 4 n3] = (Machine.join16 n0 n1 n2 n3).toNat := by
  rw [← valueOf_bitsOf, Machine.join16]
  simp only [join16, List.flatten_cons, List.flatten_nil, List.append_nil]
  refine congrArg valueOf ?_
  rw [← List.append_assoc, ← List.append_assoc, ← bitsOf_append, ← bitsOf_append, ← bitsOf_append]

/-- `concat28` on words is `concat28` of the lists of the codewords. -/
theorem concat28_bitsOf (c0 c1 c2 c3 : Codeword) :
    concat28 [bitsOf 7 c0, bitsOf 7 c1, bitsOf 7 c2, bitsOf 7 c3] = bitsOf 28 (Machine.concat28 c0 c1 c2 c3) := by
  simp only [concat28, List.flatten_cons, List.flatten_nil, List.append_nil]
  rw [← List.append_assoc, ← List.append_assoc, ← bitsOf_append, ← bitsOf_append, ← bitsOf_append,
    Machine.concat28]

/-- The list's group `k` is the codeword of unit `k`. -/
theorem take_drop_bitsOf_stream (k : Fin 4) (S : BitStream) :
    ((bitsOf 28 S).drop (7 * k.val)).take 7 = bitsOf 7 (codewordOf k S) := by
  rw [take_drop_bitsOf S (by omega), codewordOf, show 28 - 7 * k.val - 7 = 21 - 7 * k.val by omega]

theorem split28_bitsOf (S : BitStream) : split28 (bitsOf 28 S) =
    [bitsOf 7 (codewordOf 0 S), bitsOf 7 (codewordOf 1 S), bitsOf 7 (codewordOf 2 S),
      bitsOf 7 (codewordOf 3 S)] := by
  have h (k : Fin 4) := take_drop_bitsOf_stream k S
  rw [← h 0, ← h 1, ← h 2, ← h 3]; rfl

end Sys2Proof.Machine.ListLevel
end

section
/-! PROOFS. The statements about PACK, UNPACK, ABS16, splitting and joining of 41_split_pack.md. -/

namespace Sys2Proof.Proofs

open Sys2Proof Sys2Proof.Machine

/-- Settles O32: the mask of PACK's operand clears only bits that the shift drops. -/
theorem packAndUnpackShift : Obligations.PackAndUnpackShift := fun _ din s =>
  ⟨fun hn => ⟨exec_pack_shift hn din s, exec_unpack_shift hn din s⟩,
    fun hn => ⟨exec_pack_of_gt hn din s, exec_unpack_of_gt hn din s⟩⟩

/-- Settles O33: the fields fit PACK exactly when the count is at most 32, and PACK is a shift. -/
theorem packRequest : Obligations.PackRequest := by
  refine ⟨?port, mask_iff_code (o := .pack) rfl, ?corner, ?ignored, ?sample⟩
  case port =>
    rintro s w rest hp ho _ rfl
    refine ⟨fun hn S hS => ?_, fun hn => step_of_not_fits (o := .pack) hp ho (Nat.not_le.mpr hn)⟩
    rw [hS]
    exact step_of_fits (o := .pack) hp ho hn
  case corner =>
    intro din s
    exact ⟨exec_pack_of_shift (k := 32) rfl (BitVec.shiftLeft_eq_zero le_rfl) s,
      exec_pack_of_shift (k := 0) rfl (BitVec.shiftLeft_zero din) s,
      exec_pack_of_shift (k := 24) rfl (shiftLeft_24 din) s,
      fun hbit => exec_pack_of_shift (k := 31) rfl (shiftLeft_31_of_bit_zero hbit) s⟩
  case ignored =>
    intro n din din' s hn h
    rw [exec_pack_of_le hn, exec_pack_of_le hn, seqOperand_congr hn h]
  case sample =>
    intro s rest hp
    have hcount : (lenField 0x0C9000001FF).toNat ≤ 32 := by decide
    have hresult : fitsResult .pack (lenField 0x0C9000001FF) (dinField 0x0C9000001FF) = 0xFF800000 := by decide
    rw [step_of_fits (o := .pack) hp rfl hcount, hresult]

/-- Settles O34: PACK shifts its operand up by `32 - n`, which takes bit `n - 1 - j` to bit `31 - j`. -/
theorem packPutsTheFirstBitFirst : Obligations.PackPutsTheFirstBitFirst := by
  intro n din s hn
  refine ⟨_, exec_pack_shift hn din s, fun j hj => ?_, fun i hi => ?_⟩
  · rw [BitVec.getLsbD_shiftLeft, show 31 - j - (32 - n.toNat) = n.toNat - 1 - j by omega]
    simp [show 31 - j < 32 by omega, show ¬ 31 - j < 32 - n.toNat by omega]
  · simp [hi]

/-- Settles O35: the fields fit UNPACK exactly when the count is at most 32, and UNPACK is a shift that packing
undoes up to the padding. -/
theorem unpackRequest : Obligations.UnpackRequest := by
  refine ⟨?port, mask_iff_code (o := .unpack) rfl, ?corner, ?padding, fun n hn S hS => unpack_pack hn hS,
    fun n hn w i hi => getLsbD_pack_unpack hn w hi, ?sample⟩
  case port =>
    rintro s w rest hp ho _ rfl
    exact ⟨fun hn => step_of_fits (o := .unpack) hp ho hn,
      fun hn => step_of_not_fits (o := .unpack) hp ho (Nat.not_le.mpr hn)⟩
  case corner =>
    intro din s
    exact ⟨exec_unpack_of_shift (k := 32) rfl (BitVec.ushiftRight_eq_zero le_rfl) s,
      exec_unpack_of_shift (k := 0) rfl (BitVec.ushiftRight_zero din) s⟩
  case padding =>
    intro n din din' s hn h
    have hfirst : ∀ j < n.toNat, din.getLsbD (31 - j) = din'.getLsbD (31 - j) :=
      fun j hj => h (31 - j) (by omega) (by omega)
    rw [exec_unpack_of_le hn, exec_unpack_of_le hn, unpack_congr hn hfirst]
  case sample =>
    intro s rest hp
    have hcount : (lenField 0x11CD2AA1CC9).toNat ≤ 32 := by decide
    have hresult : fitsResult .unpack (lenField 0x11CD2AA1CC9) (dinField 0x11CD2AA1CC9) = 0x0D2AA1CC := by decide
    rw [step_of_fits (o := .unpack) hp rfl hcount, hresult]

/-- Settles O37: 28 bits leave the low half of byte 3 to the padding, and PACK 28 shifts by 4. -/
theorem frameStreamPacksToFourBytes : Obligations.FrameStreamPacksToFourBytes := by
  refine ⟨fun l hl _ => ⟨?_, ?_⟩, fun S s => ⟨?_, pack_eq_shiftLeft 28 _, ?_⟩⟩
  · rw [ListLevel.length_packBits, hl]
  · rw [ListLevel.getD_packBits (by omega), ListLevel.packedByte_three_mod_sixteen hl.le]
  · exact exec_pack_of_shift (k := 4) rfl rfl s
  · exact extractLsb'_padding_pack _

/-- Settles O38: a value is its units and a stream its codewords, each at its place. -/
theorem splitAndJoinAreInverse : Obligations.SplitAndJoinAreInverse :=
  ⟨join16_unitOf, unitOf_join16, concat28_codewordOf, codewordOf_concat28⟩

/-- Settles O39: `abs16` is the absolute value of the signed sample, and 16 bits hold it unsigned. -/
theorem abs16IsTheMagnitude : Obligations.Abs16IsTheMagnitude := by
  refine ⟨fun x s => ⟨abs16 x, exec_abs16 x s, toNat_abs16 x, ?_, ?_, getLsbD_15_abs16 x, ?_⟩, rfl, rfl, rfl⟩
  · rw [← toNat_abs16, Nat.mod_eq_of_lt (abs16 x).isLt]
  · rw [ofNat_sub_toNat, abs16]
  · rw [ofNat_sub_toNat, exec_abs16, exec_abs16, abs16_neg]

/-- Settles O40: the fields fit ABS16 exactly when `len` and `din[31:16]` are 0. -/
theorem abs16Request : Obligations.Abs16Request := by
  refine ⟨fun s w rest hp ho => ⟨step_abs16 hp ho, step_abs16_invalid hp ho⟩,
    fun w => (mask_iff_fits (o := .abs16) rfl w).trans (and_congr_right fun _ => fits_abs16_iff ..),
    fun x s rest hx hp => ?_, rfl, rfl, rfl, fun s rest hp => step_abs16 hp rfl rfl rfl⟩
  refine step_abs16_invalid hp (opField_reqWord ..) (.inr ?_)
  rw [dinField_reqWord]
  exact extractLsb'_high_signExtend_ne_zero hx

/-- Settles O53: a list's bytes are those of the packed word, of which the first `ceil(n/8)` hold its bits. -/
theorem listPack : Obligations.ListPack := by
  refine ⟨rfl, fun l => ⟨ListLevel.length_packBits l, fun i hi => ?_⟩,
    fun n hn S => ⟨ListLevel.packBits_bitsOf hn S, ListLevel.drop_bytesOf_pack hn S⟩⟩
  rw [ListLevel.getD_packBits hi, ListLevel.packedByte_eq_sum_ite]

/-- Settles O54: the formula of `unpackBits`, its failure, and its agreement with `unpack`. -/
theorem listUnpack : Obligations.ListUnpack := by
  refine ⟨fun n bytes h => ⟨_, ListLevel.unpackBits_ok h, ?_, fun j hj => ?_⟩,
    fun _ _ h => ListLevel.unpackBits_error h, fun n hn w m hm => ListLevel.unpackBits_bytesOf hn w hm⟩
  · rw [List.length_map, List.length_range]
  · exact ListLevel.getD_map_range _ hj

/-- Settles O55: a field's list of bits is a stretch of its word's list. -/
theorem listSplitAndJoin : Obligations.ListSplitAndJoin := by
  refine ⟨ListLevel.split16_toNat, fun v => ?_, ListLevel.concat28_bitsOf, ListLevel.split28_bitsOf⟩
  rw [ListLevel.split16_toNat, ListLevel.join16_bitsOf, join16_unitOf]

end Sys2Proof.Proofs
end

section
/-! SUPPORT. The frame assembler and the frame decoder of 42_frame.md: the meanings of well-formed instructions,
the frame as a word, its lanes and bytes, the places of the fields in DEFRAME's result, errors in lanes, and the
three requests at the port. -/

namespace Sys2Proof.Machine

/-! ### The meanings -/

/-- A well-formed instruction answers OK with its operation's result (42_frame.md R90, 60_exceptions.md R97). -/
theorem exec_of_wf {i : Instr} (h : i.wf = true) (s : State) :
    exec i s = .next (respond .ok (fitsResult i.opName i.lenOf i.dinOf) s) := by
  have hexec := exec_operandsOf_fits ((fits_fields_iff_wf i).mpr h) s
  rwa [← encode, operandsOf_encode] at hexec

/-- FRAME answers OK with the frame of its operand (42_frame.md R82). -/
theorem exec_frame (v : Sample) (s : State) :
    exec (.frame v) s = .next { s with rspErr := 0b00, rspDout := encodeSample16 v } := rfl

/-- FRAMES answers OK with the frame of its operand's magnitude (42_frame.md R83). -/
theorem exec_frames (x : Sample) (s : State) :
    exec (.frames x) s = .next { s with rspErr := 0b00, rspDout := encodeSample16 (abs16 x) } := rfl

/-- The sign is lost: FRAMES of a sample and of its negation are one (42_frame.md R84). -/
theorem exec_frames_neg (x : Sample) (s : State) : exec (.frames (-x)) s = exec (.frames x) s := by
  rw [exec_frames, exec_frames, abs16_neg]

/-- A sample that is not negative is its own magnitude. -/
theorem abs16_of_nonneg {x : Sample} (h : 0 ≤ x.toInt) : abs16 x = x := by
  apply BitVec.eq_of_toNat_eq
  rw [toNat_abs16]
  rw [BitVec.toInt_eq_toNat_cond] at h ⊢
  split at h <;> omega

/-! ### The frame as a word -/

/-- A frame is its stream above four zero bits (42_frame.md R81). -/
theorem encodeSample16_eq_append (v : Sample) : encodeSample16 v = streamOf v ++ 0#4 := by
  rw [encodeSample16, pack_eq_shiftLeft, BitVec.shiftLeft_eq_concat_of_lt (by decide)]
  exact congrArg (· ++ 0#4) ((BitVec.extractLsb'_setWidth_of_le (by decide)).trans BitVec.extractLsb'_eq_self)

@[simp] theorem frameStream_encodeSample16 (v : Sample) : frameStream (encodeSample16 v) = streamOf v :=
  frameStream_pack (streamOf v)

/-- The stream of a frame is its word above the padding (42_frame.md R85). -/
theorem frameStream_eq_extractLsb' (w : Data) : frameStream w = w.extractLsb' 4 28 := by
  have hw : w.extractLsb' 4 28 ++ w.extractLsb' 0 4 = w :=
    BitVec.extractLsb'_append_extractLsb' (w := 28) (len := 4)
  exact (congrArg frameStream hw.symm).trans (frameStream_append _ _)

/-! ### The lanes and the bytes of a frame -/

/-- A field of a field is a field of the word. -/
theorem extractLsb'_extractLsb' {n a b : Nat} (x : BitVec n) (i j : Nat) (h : j + b ≤ a) :
    (x.extractLsb' i a).extractLsb' j b = x.extractLsb' (i + j) b := by
  apply BitVec.eq_of_getLsbD_eq
  intro t ht
  simp only [BitVec.getLsbD_extractLsb', ht, show j + t < a by omega, decide_true, Bool.true_and, Nat.add_assoc]

/-- Lane `k` of a frame is the seven bits at its place in the word (42_frame.md R85). -/
theorem codewordOf_frameStream (k : Fin 4) (w : Data) :
    codewordOf k (frameStream w) = w.extractLsb' (25 - 7 * k.val) 7 := by
  rw [frameStream_eq_extractLsb', codewordOf, extractLsb'_extractLsb' w _ _ (by omega)]
  congr 1
  omega

theorem laneOf_eq_dec7 (k : Fin 4) (w : Data) : laneOf k w = dec7 (w.extractLsb' (25 - 7 * k.val) 7) := by
  rw [laneOf, codewordOf_frameStream]

/-- FRAME writes the codeword of unit `k` in lane `k` (42_frame.md R81, R87). -/
theorem extractLsb'_lane_encodeSample16 (k : Fin 4) (v : Sample) :
    (encodeSample16 v).extractLsb' (25 - 7 * k.val) 7 = enc7 (unitOf k v) := by
  rw [← codewordOf_frameStream, frameStream_encodeSample16, codewordOf_streamOf]

theorem ofBool_pos (cw : Codeword) (p : Nat) : BitVec.ofBool (pos cw p) = cw.extractLsb' (7 - p) 1 := by
  rw [pos, BitVec.getLsbD_eq_extractLsb']
  generalize cw.extractLsb' (7 - p) 1 = b
  revert b; decide

/-- Byte 0 of a frame holds lane 0 and position 1 of lane 1 (42_frame.md R81). -/
theorem byteOf_zero_frame (w : Data) : byteOf 0 w =
    codewordOf 0 (frameStream w) ++ BitVec.ofBool (pos (codewordOf 1 (frameStream w)) 1) := by
  have hbyte : w.extractLsb' 25 7 ++ w.extractLsb' 24 1 = byteOf 0 w :=
    BitVec.extractLsb'_append_extractLsb'_eq_extractLsb' rfl
  rw [ofBool_pos, codewordOf_frameStream, codewordOf_frameStream, extractLsb'_extractLsb' w _ _ (by decide)]
  exact hbyte.symm

/-- Byte 3 of a frame holds positions 4 to 7 of lane 3 and the padding (42_frame.md R81). -/
theorem byteOf_three_frame (w : Data) : byteOf 3 w =
    BitVec.ofBool (pos (codewordOf 3 (frameStream w)) 4) ++ BitVec.ofBool (pos (codewordOf 3 (frameStream w)) 5)
      ++ BitVec.ofBool (pos (codewordOf 3 (frameStream w)) 6) ++ BitVec.ofBool (pos (codewordOf 3 (frameStream w)) 7)
      ++ w.extractLsb' 0 4 := by
  have hlow : ∀ cw : Codeword, BitVec.ofBool (pos cw 4) ++ BitVec.ofBool (pos cw 5) ++ BitVec.ofBool (pos cw 6)
      ++ BitVec.ofBool (pos cw 7) = cw.extractLsb' 0 4 := by
    intro cw
    simpa [pos] using dataUnit_eq_bits (cw.extractLsb' 0 4)
  have hbyte : w.extractLsb' 4 4 ++ w.extractLsb' 0 4 = byteOf 3 w :=
    BitVec.extractLsb'_append_extractLsb'_eq_extractLsb' rfl
  rw [hlow, codewordOf_frameStream, extractLsb'_extractLsb' w _ _ (by decide)]
  exact hbyte.symm

/-! ### The fields of DEFRAME's result (42_frame.md R86)

In the two field lemmas the widths stay written as sums, so that each field can be taken off the end of the word. -/

section Fields
variable (c : Fin 4 → BitVec 1) (syn : Fin 4 → Syndrome) (v : Sample) (k : Fin 4)

theorem extractLsb'_syn_field :
    (c 0 ++ c 1 ++ c 2 ++ c 3 ++ syn 0 ++ syn 1 ++ syn 2 ++ syn 3 ++ v).extractLsb' (25 - 3 * k.val) 3 = syn k := by
  fin_cases k <;> simp [BitVec.extractLsb'_append_eq_of_le, BitVec.extractLsb'_append_eq_right, -Nat.reduceAdd]

theorem extractLsb'_cor_field :
    (c 0 ++ c 1 ++ c 2 ++ c 3 ++ syn 0 ++ syn 1 ++ syn 2 ++ syn 3 ++ v).extractLsb' (31 - k.val) 1 = c k := by
  fin_cases k <;> simp [BitVec.extractLsb'_append_eq_of_le, BitVec.extractLsb'_append_eq_right, -Nat.reduceAdd]

end Fields

section Deframe
variable (k : Fin 4) (w : Data)

@[simp] theorem extractLsb'_cor_deframeResult :
    (deframeResult w).extractLsb' (31 - k.val) 1 = (laneOf k w).cor :=
  extractLsb'_cor_field (fun k => (laneOf k w).cor) (fun k => (laneOf k w).syn) (frameValue w) k

@[simp] theorem extractLsb'_syn_deframeResult :
    (deframeResult w).extractLsb' (25 - 3 * k.val) 3 = (laneOf k w).syn :=
  extractLsb'_syn_field (fun k => (laneOf k w).cor) (fun k => (laneOf k w).syn) (frameValue w) k

@[simp] theorem extractLsb'_value_deframeResult : (deframeResult w).extractLsb' 0 16 = frameValue w :=
  BitVec.extractLsb'_append_eq_right

@[simp] theorem unitOf_frameValue : unitOf k (frameValue w) = (laneOf k w).n := by
  obtain ⟨h0, h1, h2, h3⟩ := unitOf_join16 (laneOf 0 w).n (laneOf 1 w).n (laneOf 2 w).n (laneOf 3 w).n
  match k with
  | 0 => exact h0
  | 1 => exact h1
  | 2 => exact h2
  | 3 => exact h3

theorem extractLsb'_unit_deframeResult :
    (deframeResult w).extractLsb' (12 - 4 * k.val) 4 = (laneOf k w).n := by
  rw [← unitOf_frameValue, ← extractLsb'_value_deframeResult, unitOf, extractLsb'_extractLsb' _ _ _ (by omega),
    Nat.zero_add]

theorem getLsbD_cor_deframeResult :
    (deframeResult w).getLsbD (31 - k.val) = decide ((laneOf k w).cor = 1) := by
  rw [BitVec.getLsbD_eq_extractLsb', extractLsb'_cor_deframeResult]
  rfl

end Deframe

/-- A value below other fields is its units below them. -/
theorem append_join16 (x : BitVec 16) (n0 n1 n2 n3 : DataUnit) :
    x ++ join16 n0 n1 n2 n3 = x ++ n0 ++ n1 ++ n2 ++ n3 := by
  have h3 : x ++ (n0 ++ n1 ++ n2 ++ n3) = x ++ (n0 ++ n1 ++ n2) ++ n3 := BitVec.append_assoc'
  have h2 : x ++ (n0 ++ n1 ++ n2) = x ++ (n0 ++ n1) ++ n2 := BitVec.append_assoc'
  have h1 : x ++ (n0 ++ n1) = x ++ n0 ++ n1 := BitVec.append_assoc'
  exact h3.trans (congrArg (· ++ n3) (h2.trans (congrArg (· ++ n2) h1)))

/-- DEFRAME's result with the units of its value written out. -/
theorem deframeResult_eq_fields (w : Data) : deframeResult w =
    (laneOf 0 w).cor ++ (laneOf 1 w).cor ++ (laneOf 2 w).cor ++ (laneOf 3 w).cor
      ++ (laneOf 0 w).syn ++ (laneOf 1 w).syn ++ (laneOf 2 w).syn ++ (laneOf 3 w).syn
      ++ (laneOf 0 w).n ++ (laneOf 1 w).n ++ (laneOf 2 w).n ++ (laneOf 3 w).n :=
  append_join16 _ _ _ _ _

/-- A frame whose lanes decode to the units of `v` has the value `v`. -/
theorem frameValue_eq_of_units {w : Data} {v : Sample} (h : ∀ k, (laneOf k w).n = unitOf k v) :
    frameValue w = v := by
  rw [frameValue, h, h, h, h, join16_unitOf]

/-! ### Decoding a frame, without errors and with errors in its lanes (42_frame.md R88, R89) -/

/-- A lane of a frame decodes to its unit, with no indication. -/
theorem laneOf_encodeSample16 (k : Fin 4) (v : Sample) : laneOf k (encodeSample16 v) =
    { n := unitOf k v, syn := 0, cor := 0, cc := enc7 (unitOf k v) } := by
  rw [laneOf_eq_dec7, extractLsb'_lane_encodeSample16, dec7_enc7]

theorem frameValue_encodeSample16 (v : Sample) : frameValue (encodeSample16 v) = v :=
  frameValue_eq_of_units fun k => congrArg Decoded.n (laneOf_encodeSample16 k v)

/-- DEFRAME inverts FRAME (42_frame.md R88). -/
theorem deframeResult_encodeSample16 (v : Sample) : deframeResult (encodeSample16 v) = 0#16 ++ v := by
  simp only [deframeResult, laneOf_encodeSample16, frameValue_encodeSample16]
  rfl

theorem encodeSample16_injective : Function.Injective encodeSample16 :=
  Function.LeftInverse.injective frameValue_encodeSample16

/-- The errors in a lane reach the decoder of that lane only, and the padding reaches none (42_frame.md R87, R89). -/
theorem laneOf_encodeSample16_xor (k : Fin 4) (v : Sample) (e : BitStream) (pad : BitVec 4) :
    laneOf k (encodeSample16 v ^^^ (e ++ pad)) = dec7 (enc7 (unitOf k v) ^^^ codewordOf k e) := by
  rw [laneOf, encodeSample16_eq_append, BitVec.xor_append, frameStream_append, ← codewordOf_streamOf]
  exact congrArg dec7 BitVec.extractLsb'_xor

/-- A DataUnit survives the errors in its codeword exactly when there is at most one (40_block_coder.md R66). -/
theorem dec7_enc7_xor_n_eq_iff_le_one (n : DataUnit) (e : Codeword) :
    (dec7 (enc7 n ^^^ e)).n = n ↔ (errorPositions e).length ≤ 1 := by
  have herr : (dec7 e).n = 0 ↔ (errorPositions e).length ≤ 1 := by revert e; decide
  rw [dec7_enc7_xor, ← herr]
  simp

/-! ### The requests at the port -/

theorem fits_frame_iff (len : Len) (din : Data) : Fits .frame len din ↔ len = 0 ∧ din.extractLsb' 16 16 = 0 :=
  fits_abs16_iff len din

theorem fits_frames_iff (len : Len) (din : Data) : Fits .frames len din ↔ len = 0 ∧ din.extractLsb' 16 16 = 0 :=
  fits_abs16_iff len din

theorem fitsResult_frame (len : Len) (din : Data) :
    fitsResult .frame len din = encodeSample16 (din.extractLsb' 0 16) := by
  rw [← BitVec.setWidth_eq_extractLsb' (by decide)]; rfl

theorem fitsResult_frames (len : Len) (din : Data) :
    fitsResult .frames len din = encodeSample16 (abs16 (din.extractLsb' 0 16)) := by
  rw [← BitVec.setWidth_eq_extractLsb' (by decide)]; rfl

section Request
variable {s : State} {w : ReqWord} {rest : List ReqWord} (hp : s.pending = w :: rest)
include hp

/-- FRAME with `len` and `din[31:16]` at 0 (42_frame.md R82). -/
theorem step_frame (ho : opField w = 0x5) (hlen : lenField w = 0) (hdin : (dinField w).extractLsb' 16 16 = 0) :
    step s = .next (s.answered w rest .ok (encodeSample16 ((dinField w).extractLsb' 0 16))) := by
  rw [step_of_fits (o := .frame) hp ho ((fits_frame_iff ..).mpr ⟨hlen, hdin⟩), fitsResult_frame]

/-- FRAMES with `len` and `din[31:16]` at 0 (42_frame.md R83). -/
theorem step_frames (ho : opField w = 0x7) (hlen : lenField w = 0) (hdin : (dinField w).extractLsb' 16 16 = 0) :
    step s = .next (s.answered w rest .ok (encodeSample16 (abs16 ((dinField w).extractLsb' 0 16)))) := by
  rw [step_of_fits (o := .frames) hp ho ((fits_frames_iff ..).mpr ⟨hlen, hdin⟩), fitsResult_frames]

/-- DEFRAME with `len` at 0 (42_frame.md R86). -/
theorem step_deframe (ho : opField w = 0x6) (hlen : lenField w = 0) :
    step s = .next (s.answered w rest .ok (deframeResult (dinField w))) :=
  step_of_fits (o := .deframe) hp ho hlen

end Request

end Sys2Proof.Machine
end

section
/-! SUPPORT. The list-level `encodeSample16` and `decodeSample16` of 42_frame.md, and their agreement with the
words. -/

namespace Sys2Proof.Machine.ListLevel

/-- `abs(sample) & 0xFFFF` keeps all of a number of 16 bits (42_frame.md R82). -/
theorem conditioned_of_lt {x : Int} (h : x.natAbs < 2 ^ 16) : conditioned x = x.natAbs :=
  Nat.and_two_pow_sub_one_of_lt_two_pow h

theorem conditioned_toInt (x : Sample) : conditioned x.toInt = (abs16 x).toNat := by
  rw [toNat_abs16]
  exact conditioned_of_lt (toNat_abs16 x ▸ (abs16 x).isLt)

/-- `mapM` over the four lanes succeeds when each lane does. -/
theorem mapM_four {α β : Type} {f : α → Except ListError β} {a0 a1 a2 a3 : α} {b0 b1 b2 b3 : β} (h0 : f a0 = .ok b0)
    (h1 : f a1 = .ok b1) (h2 : f a2 = .ok b2) (h3 : f a3 = .ok b3) :
    [a0, a1, a2, a3].mapM f = .ok [b0, b1, b2, b3] := by
  simp only [List.mapM_cons, List.mapM_nil, h0, h1, h2, h3]
  rfl

/-- `encodeSample16` on words is the list-level one (42_frame.md R81). -/
theorem encodeSample16_toNat (v : Sample) :
    encodeSample16 v.toNat = .ok (bytesOf (Machine.encodeSample16 v)) := by
  have hunit (k : Fin 4) := encode_bitsOf (unitOf k v)
  have hunits := mapM_four (hunit 0) (hunit 1) (hunit 2) (hunit 3)
  rw [encodeSample16, split16_toNat, hunits, Except.map, concat28_bitsOf, packBits_bitsOf (by decide)]
  rfl

/-- `decodeSample16` on words is the list-level one (42_frame.md R85). -/
theorem decodeSample16_bytesOf (w : Data) : decodeSample16 (bytesOf w) = .ok
    { value := (frameValue w).toNat
      syndromes := [(laneOf 0 w).syn.toNat, (laneOf 1 w).syn.toNat, (laneOf 2 w).syn.toNat, (laneOf 3 w).syn.toNat]
      corrected := [(laneOf 0 w).cor = 1, (laneOf 1 w).cor = 1, (laneOf 2 w).cor = 1, (laneOf 3 w).cor = 1] } := by
  have hstream : unpackBits 28 (bytesOf w) = .ok (bitsOf 28 (frameStream w)) :=
    unpackBits_bytesOf (m := 4) (by decide) w (by decide)
  have hlane (k : Fin 4) := decode_bitsOf (codewordOf k (frameStream w))
  have hlanes := mapM_four (hlane 0) (hlane 1) (hlane 2) (hlane 3)
  rw [decodeSample16, hstream, Except.bind, split28_bitsOf, hlanes, Except.map]
  simp only [List.map_cons, List.map_nil, join16_bitsOf]
  rfl

end Sys2Proof.Machine.ListLevel
end

section
/-! PROOFS. The statements about FRAME, FRAMES and DEFRAME of 42_frame.md. -/

namespace Sys2Proof.Proofs

open Sys2Proof Sys2Proof.Machine

/-- Settles O23: the operands of a well-formed instruction fit its operation, whose result needs no state. -/
theorem wellFormedInstructionsAnswerOk : Obligations.WellFormedInstructionsAnswerOk :=
  fun _ h => ⟨_, exec_of_wf h⟩

/-- Settles O41: the frame is the stream of the codewords above the padding, and each byte is cut from it. -/
theorem frameConcatenatesTheCodewords : Obligations.FrameConcatenatesTheCodewords := by
  intro v s c0 c1 c2 c3 d
  have hd : encodeSample16 v = d := encodeSample16_eq_append v
  have hstream : frameStream d = streamOf v := frameStream_append _ _
  have h0 : codewordOf 0 (frameStream d) = c0 := by rw [hstream, codewordOf_streamOf]; rfl
  have h1 : codewordOf 1 (frameStream d) = c1 := by rw [hstream, codewordOf_streamOf]; rfl
  have h3 : codewordOf 3 (frameStream d) = c3 := by rw [hstream, codewordOf_streamOf]; rfl
  refine ⟨?_, fun x hx => ?_, hd, ?_, ?_, ?_, ?_⟩
  · rw [exec_frame, hd]
  · rw [exec_frames, hx, hd]
  · rw [ListLevel.encodeSample16_toNat, hd]
  · rw [← hd]
    exact pack_eq_shiftLeft 28 _
  · rw [byteOf_zero_frame, h0, h1]
  · rw [byteOf_three_frame, h3, ← hd, extractLsb'_padding_encodeSample16]; rfl

/-- Settles O42: the fields fit FRAME exactly when `len` and `din[31:16]` are 0, and a frame holds its value. -/
theorem frameRequest : Obligations.FrameRequest := by
  refine ⟨fun s w rest hp ho => ⟨step_frame hp ho, fun h => ?_⟩,
    fun w => (mask_iff_fits (o := .frame) rfl w).trans (and_congr_right fun _ => fits_frame_iff ..),
    by decide, by decide, by decide, fun _ _ h => encodeSample16_injective h, fun s rest hp => ?_,
    fun v => ListLevel.conditioned_of_lt v.isLt, by decide, by decide⟩
  · exact step_of_not_fits (o := .frame) hp ho (mt (fits_frame_iff ..).mp (not_and_or.mpr h))
  · exact step_frame hp rfl rfl rfl

/-- Settles O43: the fields fit FRAMES exactly when `len` and `din[31:16]` are 0, and a sample and its negation have
one magnitude. -/
theorem framesRequest : Obligations.FramesRequest := by
  refine ⟨fun s w rest hp ho => ⟨step_frames hp ho, fun h => ?_⟩,
    fun w => (mask_iff_fits (o := .frames) rfl w).trans (and_congr_right fun _ => fits_frames_iff ..),
    fun s => ⟨rfl, rfl⟩, fun x s => ?_, fun s rest hp => step_frames hp rfl rfl rfl, fun s => rfl⟩
  · exact step_of_not_fits (o := .frames) hp ho (mt (fits_frames_iff ..).mp (not_and_or.mpr h))
  · rw [ofNat_sub_toNat, exec_frames_neg]

/-- Settles O44: the frame is that of the magnitude, which is all that DEFRAME gives back. -/
theorem framesLosesTheSign : Obligations.FramesLosesTheSign := by
  intro x s s'
  refine ⟨encodeSample16 (abs16 x), exec_frames x s, ?_, ?_, fun hneg => by omega, fun h => ?_⟩
  · rw [ofNat_sub_toNat, exec_frames_neg, exec_frames]
  · rw [exec_deframe, deframeResult_encodeSample16]; rfl
  · rw [exec_frame, exec_frames, abs16_of_nonneg h]

/-- Settles O45: each lane is cut from the operand at its place, and its fields are put at theirs. -/
theorem deframeDecodesEachLane : Obligations.DeframeDecodesEachLane := by
  intro w s l0 l1 l2 l3
  have h0 : laneOf 0 w = l0 := laneOf_eq_dec7 0 w
  have h1 : laneOf 1 w = l1 := laneOf_eq_dec7 1 w
  have h2 : laneOf 2 w = l2 := laneOf_eq_dec7 2 w
  have h3 : laneOf 3 w = l3 := laneOf_eq_dec7 3 w
  have hlane (k : Fin 4) : [l0, l1, l2, l3].getD k.val l0 = laneOf k w := by
    match k with
    | 0 => exact h0.symm
    | 1 => exact h1.symm
    | 2 => exact h2.symm
    | 3 => exact h3.symm
  refine ⟨deframeResult w, exec_deframe w s, ?_, fun k => ?_, ?_⟩
  · rw [deframeResult_eq_fields, h0, h1, h2, h3]
  · rw [hlane, extractLsb'_cor_deframeResult, extractLsb'_syn_deframeResult]
    exact ⟨rfl, rfl⟩
  · rw [extractLsb'_value_deframeResult, frameValue, h0, h1, h2, h3]; rfl

/-- Settles O46: the fields fit DEFRAME exactly when `len` is 0, and the padding is no part of the stream. -/
theorem deframeRequest : Obligations.DeframeRequest := by
  refine ⟨fun s w rest hp ho => ⟨fun hlen l hl => ?_, step_of_not_fits (o := .deframe) hp ho⟩,
    mask_iff_fits (o := .deframe) rfl, fun S p s => ?_, fun s => ⟨rfl, by decide, rfl, by decide, by decide⟩,
    fun s rest hp => step_deframe hp rfl rfl⟩
  · have hlane (k : Fin 4) : l k = laneOf k (dinField w) := by rw [hl, laneOf, frameStream_eq_extractLsb']
    rw [hlane, hlane, hlane, hlane]
    exact step_deframe hp ho hlen
  · have hstream : frameStream (S ++ p) = frameStream (S ++ 0#4) :=
      (frameStream_append S p).trans (frameStream_append S 0#4).symm
    rw [exec_deframe, exec_deframe, deframeResult_congr hstream]

/-- Settles O48: each lane of a frame is a codeword without error. -/
theorem deframeInvertsFrame : Obligations.DeframeInvertsFrame := by
  refine ⟨fun v => ⟨_, ListLevel.encodeSample16_toNat v, ?_⟩, fun v s s' => ⟨_, exec_frame v s, ?_, fun k => ?_⟩⟩
  · rw [ListLevel.decodeSample16_bytesOf, frameValue_encodeSample16]
    simp only [laneOf_encodeSample16]
    rfl
  · rw [exec_deframe, deframeResult_encodeSample16]; rfl
  · rw [laneOf_encodeSample16]
    exact ⟨rfl, rfl, rfl⟩

/-- Settles O49: each lane decodes its own codeword with its own errors, and the value is the lanes' units. -/
theorem frameErrorTolerance : Obligations.FrameErrorTolerance := by
  intro v e pad s
  have hlane (k : Fin 4) := laneOf_encodeSample16_xor k v e pad
  refine ⟨_, exec_deframe _ s, fun k => ?_, fun h => ?_⟩
  · rw [extractLsb'_value_deframeResult, unitOf_frameValue, extractLsb'_cor_deframeResult,
      extractLsb'_syn_deframeResult, hlane]
    refine ⟨fun h0 => ?_, fun q h1 h7 hq => ?_, fun h2 => ?_⟩
    · rw [h0, BitVec.ofNat_eq_ofNat, BitVec.xor_zero, dec7_enc7]
      exact ⟨rfl, rfl, rfl⟩
    · rw [hq, dec7_enc7_xor_posMask _ h1 h7]
      exact ⟨rfl, rfl, rfl⟩
    · exact mt (dec7_enc7_xor_n_eq_iff_le_one _ _).mp (by omega)
  · rw [extractLsb'_value_deframeResult]
    refine frameValue_eq_of_units fun k => ?_
    rw [hlane]
    exact (dec7_enc7_xor_n_eq_iff_le_one _ _).mpr (h k)

/-- Settles O50: lane `k` of a frame is the codeword of unit `k`, and lane `k` decodes the seven bits of its own. -/
theorem lanesAreIndependent : Obligations.LanesAreIndependent := by
  refine ⟨fun k v v' s h => ⟨_, _, exec_frame v s, exec_frame v' s, ?_⟩,
    fun k x x' s h => ⟨_, _, exec_frames x s, exec_frames x' s, ?_⟩,
    fun k w w' s h => ⟨_, _, exec_deframe w s, exec_deframe w' s, ?_⟩⟩
  · rw [extractLsb'_lane_encodeSample16, extractLsb'_lane_encodeSample16, h]
  · rw [extractLsb'_lane_encodeSample16, extractLsb'_lane_encodeSample16, h]
  · have hlane : laneOf k w = laneOf k w' := by rw [laneOf_eq_dec7, laneOf_eq_dec7, h]
    simp only [extractLsb'_unit_deframeResult, extractLsb'_syn_deframeResult, extractLsb'_cor_deframeResult, hlane,
      and_self]

/-- Settles O56: the words of the frame's parts are the lists of the list level's; the magnitude of a sample is the
number that the list level conditions it to. -/
theorem frameRefinesListEncodeSample16 : Obligations.FrameRefinesListEncodeSample16 := by
  refine ⟨fun v s => ⟨_, exec_frame v s, ListLevel.encodeSample16_toNat v⟩,
    fun x s => ⟨_, exec_frames x s, ?_⟩⟩
  rw [ListLevel.conditioned_toInt, ListLevel.encodeSample16_toNat]

/-- Settles O57: the list level decodes the same four lanes, whose fields stand at their places in the result. -/
theorem deframeRefinesListDecodeSample16 : Obligations.DeframeRefinesListDecodeSample16 := by
  intro w s
  refine ⟨_, exec_deframe w s, ?_⟩
  have hsyn (k : Fin 4) := extractLsb'_syn_deframeResult k w
  have hcor (k : Fin 4) := getLsbD_cor_deframeResult k w
  rw [ListLevel.decodeSample16_bytesOf, extractLsb'_value_deframeResult, ← hsyn 0, ← hsyn 1, ← hsyn 2, ← hsyn 3,
    ← hcor 0, ← hcor 1, ← hcor 2, ← hcor 3]
  rfl

end Sys2Proof.Proofs
end

section
/-! SUPPORT. The error table of 60_exceptions.md R92 and R94 as the decoder's checks, and which of the three
conditions of R96 a request reports. -/

namespace Sys2Proof.Machine

/-! ### The error table, by the decoder's checks -/

/-- A request of an assigned operation meets its row of 60_exceptions.md R92 exactly when its operand fields do
not fit. -/
theorem invalidOperands_code_iff (o : OpName) (len : Len) (din : Data) :
    InvalidOperands o.code len din ↔ ¬ Fits o len din := by
  cases o with
  | enc => simp [InvalidOperands, OpName.code, fits_enc_iff, imp_iff_not_or]
  | dec => simp [InvalidOperands, OpName.code, fits_dec_iff, imp_iff_not_or]
  | pack => simp [InvalidOperands, OpName.code, Fits]
  | unpack => simp [InvalidOperands, OpName.code, Fits]
  | frame => simp [InvalidOperands, OpName.code, fits_frame_iff, imp_iff_not_or]
  | deframe => simp [InvalidOperands, OpName.code, Fits]
  | frames => simp [InvalidOperands, OpName.code, fits_frames_iff, imp_iff_not_or]
  | abs16 => simp [InvalidOperands, OpName.code, fits_abs16_iff, imp_iff_not_or]

/-- Every row of 60_exceptions.md R92 is the row of an assigned operation. -/
theorem not_reserved_of_invalidOperands {op : Op} {len : Len} {din : Data} (h : InvalidOperands op len din) :
    ¬ Reserved op := by
  rcases h with ⟨rfl, -⟩ | ⟨rfl, -⟩ | ⟨rfl, -⟩ | ⟨rfl, -⟩ | ⟨rfl, -⟩ | ⟨rfl, -⟩ | ⟨rfl, -⟩ | ⟨rfl, -⟩ <;>
    simp [Reserved]

/-- A code that is not reserved is the code of an operation. -/
theorem exists_code_of_not_reserved {op : Op} (h : ¬ Reserved op) : ∃ o : OpName, op = o.code := by
  obtain ⟨o, ho⟩ := Option.ne_none_iff_exists'.mp (mt (reserved_iff op).mpr h)
  exact ⟨o, opNameOf_eq_some.mp ho⟩

/-- No decoding error answers with OK. -/
theorem errCodeOf_ne_ok (e : DecodeError) : errCodeOf e ≠ .ok := by
  cases e with
  | reservedOp op => exact ErrCode.noConfusion
  | invalidInput o => exact ErrCode.noConfusion

/-! ### The condition a request reports -/

section Conditions
variable {s : State} {w : ReqWord} {rest : List ReqWord} (hp : s.pending = w :: rest)
include hp

/-- A reserved code is answered from `op` alone (60_exceptions.md R94). -/
theorem step_of_reserved (h : Reserved (opField w)) : step s = .next (s.answered w rest .reservedOp 0) := by
  rw [step_eq_answered hp, answer_reserved ((reserved_iff _).mp h)]

theorem step_of_invalidOperands (h : InvalidOperands (opField w) (lenField w) (dinField w)) :
    step s = .next (s.answered w rest .invalidInput 0) := by
  obtain ⟨o, ho⟩ := exists_code_of_not_reserved (not_reserved_of_invalidOperands h)
  rw [ho] at h
  exact step_of_not_fits hp ho ((invalidOperands_code_iff ..).mp h)

/-- An assigned operation whose checks pass answers OK, whatever its data (60_exceptions.md R97). -/
theorem step_of_checks_pass (hr : ¬ Reserved (opField w))
    (hi : ¬ InvalidOperands (opField w) (lenField w) (dinField w)) :
    ∃ d, step s = .next (s.answered w rest .ok d) := by
  obtain ⟨o, ho⟩ := exists_code_of_not_reserved hr
  rw [ho, invalidOperands_code_iff, not_not] at hi
  exact ⟨_, step_of_fits hp ho hi⟩

/-- Each request reports exactly one of the three conditions of 60_exceptions.md R96. -/
theorem step_condition_cases :
    (Reserved (opField w) ∧ ¬ InvalidOperands (opField w) (lenField w) (dinField w) ∧
        step s = .next (s.answered w rest .reservedOp 0)) ∨
      (¬ Reserved (opField w) ∧ InvalidOperands (opField w) (lenField w) (dinField w) ∧
        step s = .next (s.answered w rest .invalidInput 0)) ∨
      (¬ Reserved (opField w) ∧ ¬ InvalidOperands (opField w) (lenField w) (dinField w) ∧
        ∃ d, step s = .next (s.answered w rest .ok d)) := by
  by_cases hi : InvalidOperands (opField w) (lenField w) (dinField w)
  · exact .inr (.inl ⟨not_reserved_of_invalidOperands hi, hi, step_of_invalidOperands hp hi⟩)
  · by_cases hr : Reserved (opField w)
    · exact .inl ⟨hr, hi, step_of_reserved hp hr⟩
    · exact .inr (.inr ⟨hr, hi, step_of_checks_pass hp hr hi⟩)

end Conditions

end Sys2Proof.Machine
end

section
/-! PROOFS. The statements about the error responses of 60_exceptions.md. -/

namespace Sys2Proof.Proofs

open Sys2Proof Sys2Proof.Machine

/-- Settles O17: a reserved code selects no operation, so no other field is looked at. -/
theorem reservedOpsAnswerReservedOp : Obligations.ReservedOpsAnswerReservedOp :=
  fun _ _ _ hp h => step_of_reserved hp h

/-- Settles O18: of the three conditions a request can report, only the table's rows answer INVALID_INPUT. -/
theorem invalidInputExactly : Obligations.InvalidInputExactly := by
  intro s w rest hp
  rcases step_condition_cases hp with ⟨-, hi, hstep⟩ | ⟨-, hi, hstep⟩ | ⟨-, hi, d, hstep⟩
  · exact ⟨_, hstep, iff_of_false (show ErrCode.reservedOp.code ≠ 0b01 by decide) hi, fun h => absurd h hi⟩
  · exact ⟨_, hstep, iff_of_true rfl hi, fun _ => rfl⟩
  · exact ⟨_, hstep, iff_of_false (show ErrCode.ok.code ≠ 0b01 by decide) hi, fun h => absurd h hi⟩

/-- Settles O19: each of the three clauses is the one condition that the request reports. -/
theorem errorPriority : Obligations.ErrorPriority := by
  intro s w rest hp
  rcases step_condition_cases hp with ⟨hr, -, hstep⟩ | ⟨hr, hi, hstep⟩ | ⟨hr, hi, d, hstep⟩
  · exact ⟨_, hstep, fun _ => rfl, fun h => absurd hr h, fun h => absurd hr h⟩
  · exact ⟨_, hstep, fun h => absurd h hr, fun _ _ => rfl, fun _ h => absurd hi h⟩
  · exact ⟨_, hstep, fun h => absurd h hr, fun _ h => absurd h hi, fun _ _ => rfl⟩

/-- Settles O20: the error is one answered state, and the step from it answers the next request like any other. -/
theorem errorsCarryNoResultAndAreRecoverable : Obligations.ErrorsCarryNoResultAndAreRecoverable := by
  intro s w rest e hp hd
  refine ⟨errCodeOf e, errCodeOf_ne_ok e, step_of_decode_error hp hd, fun w' rest' hrest => ?_⟩
  have hp' : (s.answered w rest (errCodeOf e) 0).pending = w' :: rest' := hrest
  exact ⟨_, step_eq_answered hp', answered_rspPort ..⟩

end Sys2Proof.Proofs
end

section
/-! SUPPORT. The request that a run meets first, the end of a run, and a settled sample of the response port. -/

namespace Sys2Proof.Machine

/-- Without a request a step stops: the run has ended (70_reset_and_hazards.md R115, log entry 2). -/
theorem step_of_no_request {s : State} (hp : s.pending = []) : step s = .refused .noRequest := by
  simp [step, nextRequest_nil hp]

/-- A number of 48 bits keeps every bit of a request word. -/
theorem ofNat_tableWord_toNat (w : ReqWord) : BitVec.ofNat 42 (tableWord 48 w.toNat) = w := by
  have hlt : w.toNat < 2 ^ 48 := w.isLt.trans (by decide)
  rw [tableWord, Nat.mod_eq_of_lt hlt, BitVec.ofNat_toNat, BitVec.setWidth_eq]

@[simp] theorem withFetchWord_pending (s : State) (w : ReqWord) :
    (s.withFetchWord 48 w.toNat).pending = w :: s.pending.drop 1 :=
  congrArg (· :: s.pending.drop 1) (ofNat_tableWord_toNat w)

/-- Whatever the state, the request put in front of it is the one that goes on the request ports, and `Respond`
of it on the response ports (70_reset_and_hazards.md R110). -/
theorem step_withFetchWord (s : State) (w : ReqWord) :
    ∃ t, step (s.withFetchWord 48 w.toNat) = .next t ∧ t.reqPort = w ∧ t.rspPort = respondTo w :=
  ⟨_, step_eq_answered (withFetchWord_pending s w), answered_reqPort .., answered_rspPort ..⟩

/-- A sample taken once the request has been held for `T_SETTLE` is `Respond` of it (70_reset_and_hazards.md
R111). -/
theorem sampleResponse_of_settled {held : Nat} (h : Config.tSettle ≤ held) (k : Nat) (w : ReqWord) :
    sampleResponse k held w = respondTo w :=
  if_pos h

end Sys2Proof.Machine
end

section
/-! PROOFS. The statements about a run, the first request and the settled response of 70_reset_and_hazards.md. -/

namespace Sys2Proof.Proofs

open Sys2Proof Sys2Proof.Machine

/-- Settles O9: the run observes the pairs and leaves no request, and without one a step stops. -/
theorem runObservesItsPairs : Obligations.RunObservesItsPairs := by
  intro s
  obtain ⟨t, hrun, hobs, hnil⟩ := run_observes_pairs s
  exact ⟨t, hrun, hobs, hnil, step_of_no_request hnil⟩

/-- Settles O15: the state after reset is one of the states that answer a request with `Respond` of it. -/
theorem firstRequestIsAnsweredLikeAnyOther : Obligations.FirstRequestIsAnsweredLikeAnyOther := by
  intro w s
  obtain ⟨t, hstep, hreq, hrsp⟩ := step_withFetchWord State.reset w
  obtain ⟨u, hstep', hreq', hrsp'⟩ := step_withFetchWord s w
  exact ⟨t, u, hstep, hstep', hreq, hreq', hrsp, hrsp'.trans hrsp.symm⟩

/-- Settles O16: the settled sample and the response port after the step are both `Respond` of the request. -/
theorem settledSampleIsTheResponse : Obligations.SettledSampleIsTheResponse := by
  intro s w rest k held hp hheld
  exact ⟨_, step_eq_answered hp, sampleResponse_of_settled hheld k w⟩

end Sys2Proof.Proofs
end
